-- ==== Sys2Proof/Word.lean ====
section
/-! DEFINITION. The two word types of the machine: bytes (00_scope.md R5, R7) and 16-bit addresses (R5). -/
namespace Sys2Proof

/-- A memory location, or one of the registers A, X, H (00_scope.md R5). Bit 0 is the least significant (R7). -/
abbrev Byte := BitVec 8

/-- A 16-bit value: an address, H:X, SP or PC (00_scope.md R5). Its sums wrap modulo 2^16 (92_eei_decisions.md D1; log 20). -/
abbrev Addr := BitVec 16

end Sys2Proof
end

