-- ==== Sys2Proof/Syntax.lean ====
section
/-! DEFINITION. The instructions of opcode_table.json, one constructor per mnemonic; the rows of a mnemonic are told apart by an
operand form (30_encoding.md R84 to R99). -/
namespace Sys2Proof

/-- How an instruction names a memory location: the formats of 30_encoding.md R87 to R93 with their operand bytes. -/
inductive Mode where
  /-- DIR, `dd`: the low byte of an address in the direct page (R87). -/
  | dir (dd : Byte)
  /-- EXT, `hh ll`: a 16-bit address (R88). -/
  | ext (hhll : Addr)
  /-- IX2, `ee ff`: H:X plus a 16-bit offset (R89). -/
  | ix2 (eeff : Addr)
  /-- IX1, `ff`: H:X plus an 8-bit offset (R90). -/
  | ix1 (ff : Byte)
  /-- IX: H:X itself (R91). -/
  | ix
  /-- SP2, `ee ff`: SP plus a 16-bit offset (R92). -/
  | sp2 (eeff : Addr)
  /-- SP1, `ff`: SP plus an 8-bit offset (R93). -/
  | sp1 (ff : Byte)
deriving DecidableEq, Repr

/-- An 8-bit source operand: IMM8 (R85) or a memory byte. -/
inductive Operand8 where
  /-- IMM8, `ii` (R85). -/
  | imm (ii : Byte)
  /-- The byte at an effective address. -/
  | mem (m : Mode)
deriving DecidableEq, Repr

/-- A 16-bit source operand: IMM16 (R86) or two consecutive memory bytes. -/
inductive Operand16 where
  /-- IMM16, `jj kk` (R86). -/
  | imm (jjkk : Addr)
  /-- The two bytes at an effective address and the next. -/
  | mem (m : Mode)
deriving DecidableEq, Repr

/-- The four forms of MOV (R96 to R99). -/
inductive MovForm where
  /-- MOV DIR/DIR, `4E dd dd`: source first (R96). -/
  | dirDir (src dst : Byte)
  /-- MOV DIR/IX+, `5E dd` (R97). -/
  | dirIxp (dd : Byte)
  /-- MOV IMM/DIR, `6E ii dd` (R98). -/
  | immDir (ii dd : Byte)
  /-- MOV IX+/DIR, `7E dd` (R99). -/
  | ixpDir (dd : Byte)
deriving DecidableEq, Repr

/-- An instruction, one constructor per mnemonic of opcode_table.json. -/
inductive Instr where
  /-- LDA (R121). -/
  | lda (o : Operand8)
  /-- LDHX (R122). -/
  | ldhx (o : Operand16)
  /-- LDX (R123). -/
  | ldx (o : Operand8)
  /-- STA (R124). -/
  | sta (m : Mode)
  /-- STHX (R125). -/
  | sthx (m : Mode)
  /-- STX (R126). -/
  | stx (m : Mode)
  /-- BSET n (R140). -/
  | bset (n : Fin 8) (dd : Byte)
  /-- BCLR n (R141). -/
  | bclr (n : Fin 8) (dd : Byte)
  /-- MOV (R142). -/
  | mov (f : MovForm)
  /-- TAX (R143). -/
  | tax
  /-- TXA (R144). -/
  | txa
  /-- TAP (R145). -/
  | tap
  /-- TPA (R146). -/
  | tpa
  /-- NSA (R147). -/
  | nsa
  /-- ADC (R160). -/
  | adc (o : Operand8)
  /-- ADD (R161). -/
  | add (o : Operand8)
  /-- AIS (R162). -/
  | ais (ii : Byte)
  /-- AIX (R163). -/
  | aix (ii : Byte)
  /-- SUB (R164). -/
  | sub (o : Operand8)
  /-- SBC (R165). -/
  | sbc (o : Operand8)
  /-- MUL (R166). -/
  | mul
  /-- DIV (R167). -/
  | div
  /-- INC on a memory byte (R180). -/
  | inc (m : Mode)
  /-- INCA (R180). -/
  | inca
  /-- INCX (R180). -/
  | incx
  /-- DEC on a memory byte (R181). -/
  | dec (m : Mode)
  /-- DECA (R181). -/
  | deca
  /-- DECX (R181). -/
  | decx
  /-- CLR on a memory byte (R182). -/
  | clr (m : Mode)
  /-- CLRA (R182). -/
  | clra
  /-- CLRX (R182). -/
  | clrx
  /-- CLRH (R182). -/
  | clrh
  /-- NEG on a memory byte (R183). -/
  | neg (m : Mode)
  /-- NEGA (R183). -/
  | nega
  /-- NEGX (R183). -/
  | negx
  /-- CMP (R184). -/
  | cmp (o : Operand8)
  /-- CPHX (R185). -/
  | cphx (o : Operand16)
  /-- CPX (R186). -/
  | cpx (o : Operand8)
  /-- TST on a memory byte (R187). -/
  | tst (m : Mode)
  /-- TSTA (R187). -/
  | tsta
  /-- TSTX (R187). -/
  | tstx
  /-- DAA (R188). -/
  | daa
  /-- AND (R200). -/
  | and (o : Operand8)
  /-- ORA (R201). -/
  | ora (o : Operand8)
  /-- EOR (R202). -/
  | eor (o : Operand8)
  /-- COM on a memory byte (R203). -/
  | com (m : Mode)
  /-- COMA (R203). -/
  | coma
  /-- COMX (R203). -/
  | comx
  /-- BIT (R204). -/
  | bit (o : Operand8)
  /-- LSL on a memory byte (R211). -/
  | lsl (m : Mode)
  /-- LSLA (R211). -/
  | lsla
  /-- LSLX (R211). -/
  | lslx
  /-- ASL, the second spelling of LSL (R211, R105). -/
  | asl (m : Mode)
  /-- ASLA, the second spelling of LSLA. -/
  | asla
  /-- ASLX, the second spelling of LSLX. -/
  | aslx
  /-- LSR on a memory byte (R212). -/
  | lsr (m : Mode)
  /-- LSRA (R212). -/
  | lsra
  /-- LSRX (R212). -/
  | lsrx
  /-- ASR on a memory byte (R213). -/
  | asr (m : Mode)
  /-- ASRA (R213). -/
  | asra
  /-- ASRX (R213). -/
  | asrx
  /-- ROL on a memory byte (R214). -/
  | rol (m : Mode)
  /-- ROLA (R214). -/
  | rola
  /-- ROLX (R214). -/
  | rolx
  /-- ROR on a memory byte (R215). -/
  | ror (m : Mode)
  /-- RORA (R215). -/
  | rora
  /-- RORX (R215). -/
  | rorx
  /-- JMP (R220). -/
  | jmp (m : Mode)
  /-- BRA (R222). -/
  | bra (rr : Byte)
  /-- BRN (R223). -/
  | brn (rr : Byte)
  /-- BHI (R224). -/
  | bhi (rr : Byte)
  /-- BLS (R225). -/
  | bls (rr : Byte)
  /-- BCC (R226). -/
  | bcc (rr : Byte)
  /-- BHS, the second spelling of BCC (R226, R105). -/
  | bhs (rr : Byte)
  /-- BCS (R227). -/
  | bcs (rr : Byte)
  /-- BLO, the second spelling of BCS (R227, R105). -/
  | blo (rr : Byte)
  /-- BNE (R228). -/
  | bne (rr : Byte)
  /-- BEQ (R229). -/
  | beq (rr : Byte)
  /-- BHCC (R230). -/
  | bhcc (rr : Byte)
  /-- BHCS (R231). -/
  | bhcs (rr : Byte)
  /-- BPL (R232). -/
  | bpl (rr : Byte)
  /-- BMI (R233). -/
  | bmi (rr : Byte)
  /-- BMC (R234). -/
  | bmc (rr : Byte)
  /-- BMS (R235). -/
  | bms (rr : Byte)
  /-- BIL (R236). -/
  | bil (rr : Byte)
  /-- BIH (R237). -/
  | bih (rr : Byte)
  /-- BGE (R238). -/
  | bge (rr : Byte)
  /-- BLT (R239). -/
  | blt (rr : Byte)
  /-- BGT (R240). -/
  | bgt (rr : Byte)
  /-- BLE (R241). -/
  | ble (rr : Byte)
  /-- TXS (47_referenced_untabled.md R260). -/
  | txs
deriving DecidableEq, Repr

end Sys2Proof
end

