-- ==== Sys2Proof/WellFormed.lean ====
section
/-! DEFINITION. Which operand forms each instruction has: the addressing-mode rows of the instruction tables. -/
namespace Sys2Proof

/-- Every memory mode but SP2: the modes of LDHX (40_load_store.md R122). -/
def Mode.okLdhx : Mode → Bool
  | .sp2 _ => false
  | _ => true

/-- DIR, EXT and SP1: the modes of STHX and CPHX (R125, R185). -/
def Mode.okPair : Mode → Bool
  | .dir _ | .ext _ | .sp1 _ => true
  | _ => false

/-- DIR, IX1, IX and SP1: the modes of the read-modify-write group, CLR and TST (R189). -/
def Mode.okRmw : Mode → Bool
  | .dir _ | .ix1 _ | .ix | .sp1 _ => true
  | _ => false

/-- DIR, EXT, IX2, IX1 and IX: the modes of JMP (R220). -/
def Mode.okJump : Mode → Bool
  | .sp2 _ | .sp1 _ => false
  | _ => true

/-- The instruction has the operand form it is given. The eight-mode instructions, STA and STX have every form of their types. -/
def Instr.wf : Instr → Bool
  | .ldhx (.mem m) => m.okLdhx
  | .sthx m | .cphx (.mem m) => m.okPair
  | .inc m | .dec m | .clr m | .neg m | .tst m | .com m | .lsl m | .asl m | .lsr m | .asr m | .rol m | .ror m => m.okRmw
  | .jmp m => m.okJump
  | .lda _ | .ldhx (.imm _) | .ldx _ | .sta _ | .stx _ | .bset _ _ | .bclr _ _ | .mov _ | .tax | .txa | .tap | .tpa | .nsa => true
  | .adc _ | .add _ | .ais _ | .aix _ | .sub _ | .sbc _ | .mul | .div => true
  | .inca | .incx | .deca | .decx | .clra | .clrx | .clrh | .nega | .negx | .cmp _ | .cphx (.imm _) | .cpx _ | .tsta | .tstx | .daa => true
  | .and _ | .ora _ | .eor _ | .coma | .comx | .bit _ => true
  | .lsla | .lslx | .asla | .aslx | .lsra | .lsrx | .asra | .asrx | .rola | .rolx | .rora | .rorx => true
  | .bra _ | .brn _ | .bhi _ | .bls _ | .bcc _ | .bhs _ | .bcs _ | .blo _ | .bne _ | .beq _ | .bhcc _ | .bhcs _ => true
  | .bpl _ | .bmi _ | .bmc _ | .bms _ | .bil _ | .bih _ | .bge _ | .blt _ | .bgt _ | .ble _ | .txs => true

/-- The primary spelling of an instruction: the alias rows of 30_encoding.md R105 become LSL, LSLA, LSLX, BCC, BCS. -/
def Instr.primary : Instr → Instr
  | .asl m => .lsl m
  | .asla => .lsla
  | .aslx => .lslx
  | .bhs rr => .bcc rr
  | .blo rr => .bcs rr
  | i => i

end Sys2Proof
end

