-- ==== Sys2Proof/Decode.lean ====
section
/-! DEFINITION. The encoding of instructions: byte helpers, lengths, the two opcode pages, the decoder, and the encoder
(30_encoding.md). The decoder follows the opcode tables R101 and R102 row by row; the encoder follows the per-family patterns
(42_add_sub_mul_div.md's eight-mode pattern, 43_other_arithmetic.md R189's six-operand pattern) and the tables of R122 to R260. -/
namespace Sys2Proof

/-! ### Byte order and extension (00_scope.md R9, R11; 20_memory.md R55) -/

/-- The 16-bit value `hi:lo` (R9): the first byte is the high one (R55). -/
def joinBytes (hi lo : Byte) : Addr := hi ++ lo

/-- Bits 15 to 8. -/
def hiByte (w : Addr) : Byte := w.extractLsb' 8 8

/-- Bits 7 to 0. -/
def loByte (w : Addr) : Byte := w.extractLsb' 0 8

/-- `zext_16(b)` (R11). -/
def zext16 (b : Byte) : Addr := b.setWidth 16

/-- `sext_16(b)` (R11). -/
def sext16 (b : Byte) : Addr := b.signExtend 16

/-- The pre-byte that selects opcode page 2 (30_encoding.md R81). -/
def preByte : Byte := 0x9E#8

/-! ### Lengths (R80, R83 to R99) -/

/-- How many operand bytes a mode takes (R87 to R93). -/
def Mode.operandBytes : Mode → Nat
  | .ix => 0
  | .dir _ | .ix1 _ | .sp1 _ => 1
  | .ext _ | .ix2 _ | .sp2 _ => 2

/-- One for the modes that only page 2 holds, SP1 and SP2 (R92, R93); zero for the others. -/
def Mode.preBytes : Mode → Nat
  | .sp1 _ | .sp2 _ => 1
  | .dir _ | .ext _ | .ix2 _ | .ix1 _ | .ix => 0

/-- The length of an opcode with a memory mode: pre-byte, opcode, operand bytes. -/
def Mode.size (m : Mode) : Nat := m.preBytes + 1 + m.operandBytes

/-- The length of an eight-mode instruction (R85, R87 to R93). -/
def Operand8.size : Operand8 → Nat
  | .imm _ => 2
  | .mem m => m.size

/-- The length of LDHX: its IX, IX1 and IX2 forms are on page 2 and one byte longer (R89 to R91). -/
def Operand16.sizeLdhx : Operand16 → Nat
  | .imm _ => 3
  | .mem .ix => 2
  | .mem (.ix1 _) => 3
  | .mem (.ix2 _) => 4
  | .mem m => m.size

/-- The length of CPHX (R185). -/
def Operand16.sizeCphx : Operand16 → Nat
  | .imm _ => 3
  | .mem m => m.size

/-- The length of MOV (R96 to R99). -/
def MovForm.size : MovForm → Nat
  | .dirDir _ _ | .immDir _ _ => 3
  | .dirIxp _ | .ixpDir _ => 2

/-- The byte count of an instruction, its pre-byte included (R83). -/
def Instr.size : Instr → Nat
  | .ldhx o => o.sizeLdhx
  | .cphx o => o.sizeCphx
  | .mov f => f.size
  | .lda o | .ldx o | .adc o | .add o | .sub o | .sbc o | .cmp o | .cpx o | .and o | .ora o | .eor o | .bit o => o.size
  | .sta m | .sthx m | .stx m | .inc m | .dec m | .clr m | .neg m | .tst m | .com m => m.size
  | .lsl m | .asl m | .lsr m | .asr m | .rol m | .ror m | .jmp m => m.size
  | .bset _ _ | .bclr _ _ | .ais _ | .aix _ => 2
  | .bra _ | .brn _ | .bhi _ | .bls _ | .bcc _ | .bhs _ | .bcs _ | .blo _ | .bne _ | .beq _ | .bhcc _ | .bhcs _ => 2
  | .bpl _ | .bmi _ | .bmc _ | .bms _ | .bil _ | .bih _ | .bge _ | .blt _ | .bgt _ | .ble _ => 2
  | .tax | .txa | .tap | .tpa | .nsa | .mul | .div | .daa | .txs => 1
  | .inca | .incx | .deca | .decx | .clra | .clrx | .clrh | .nega | .negx | .tsta | .tstx | .coma | .comx => 1
  | .lsla | .lslx | .asla | .aslx | .lsra | .lsrx | .asra | .asrx | .rola | .rolx | .rora | .rorx => 1

/-! ### The decoder -/

/-- A row of an opcode page: how the operand bytes after the opcode build the instruction. -/
inductive Row where
  /-- No operand byte (INH, IX). -/
  | none (i : Instr)
  /-- One operand byte. -/
  | one (mk : Byte → Instr)
  /-- Two operand bytes, in memory order. -/
  | two (mk : Byte → Byte → Instr)

/-- INH (R84). -/
def Row.inh (i : Instr) : Row := .none i
/-- DIR (R87). -/
def Row.dir (mk : Mode → Instr) : Row := .one fun dd => mk (.dir dd)
/-- EXT (R88). -/
def Row.ext (mk : Mode → Instr) : Row := .two fun hh ll => mk (.ext (joinBytes hh ll))
/-- IX2 (R89). -/
def Row.ix2 (mk : Mode → Instr) : Row := .two fun ee ff => mk (.ix2 (joinBytes ee ff))
/-- IX1 (R90). -/
def Row.ix1 (mk : Mode → Instr) : Row := .one fun ff => mk (.ix1 ff)
/-- IX (R91). -/
def Row.ix (mk : Mode → Instr) : Row := .none (mk .ix)
/-- SP2 (R92). -/
def Row.sp2 (mk : Mode → Instr) : Row := .two fun ee ff => mk (.sp2 (joinBytes ee ff))
/-- SP1 (R93). -/
def Row.sp1 (mk : Mode → Instr) : Row := .one fun ff => mk (.sp1 ff)

/-- How many operand bytes follow the opcode. -/
def Row.operandCount : Row → Nat
  | .none _ => 0
  | .one _ => 1
  | .two _ => 2

/-- The page-1 opcodes (R101): `none` for a byte that has no row, and for the pre-byte. -/
def page1 (b0 : Byte) : Option Row :=
  match b0.toNat with
  | 0x10 => some (.one fun dd => .bset 0 dd)
  | 0x11 => some (.one fun dd => .bclr 0 dd)
  | 0x12 => some (.one fun dd => .bset 1 dd)
  | 0x13 => some (.one fun dd => .bclr 1 dd)
  | 0x14 => some (.one fun dd => .bset 2 dd)
  | 0x15 => some (.one fun dd => .bclr 2 dd)
  | 0x16 => some (.one fun dd => .bset 3 dd)
  | 0x17 => some (.one fun dd => .bclr 3 dd)
  | 0x18 => some (.one fun dd => .bset 4 dd)
  | 0x19 => some (.one fun dd => .bclr 4 dd)
  | 0x1A => some (.one fun dd => .bset 5 dd)
  | 0x1B => some (.one fun dd => .bclr 5 dd)
  | 0x1C => some (.one fun dd => .bset 6 dd)
  | 0x1D => some (.one fun dd => .bclr 6 dd)
  | 0x1E => some (.one fun dd => .bset 7 dd)
  | 0x1F => some (.one fun dd => .bclr 7 dd)
  | 0x20 => some (.one .bra)
  | 0x21 => some (.one .brn)
  | 0x22 => some (.one .bhi)
  | 0x23 => some (.one .bls)
  | 0x24 => some (.one .bcc)
  | 0x25 => some (.one .bcs)
  | 0x26 => some (.one .bne)
  | 0x27 => some (.one .beq)
  | 0x28 => some (.one .bhcc)
  | 0x29 => some (.one .bhcs)
  | 0x2A => some (.one .bpl)
  | 0x2B => some (.one .bmi)
  | 0x2C => some (.one .bmc)
  | 0x2D => some (.one .bms)
  | 0x2E => some (.one .bil)
  | 0x2F => some (.one .bih)
  | 0x30 => some (.dir .neg)
  | 0x32 => some (.ext fun m => .ldhx (.mem m))
  | 0x33 => some (.dir .com)
  | 0x34 => some (.dir .lsr)
  | 0x35 => some (.dir .sthx)
  | 0x36 => some (.dir .ror)
  | 0x37 => some (.dir .asr)
  | 0x38 => some (.dir .lsl)
  | 0x39 => some (.dir .rol)
  | 0x3A => some (.dir .dec)
  | 0x3C => some (.dir .inc)
  | 0x3D => some (.dir .tst)
  | 0x3E => some (.ext fun m => .cphx (.mem m))
  | 0x3F => some (.dir .clr)
  | 0x40 => some (.inh .nega)
  | 0x42 => some (.inh .mul)
  | 0x43 => some (.inh .coma)
  | 0x44 => some (.inh .lsra)
  | 0x45 => some (.two fun jj kk => .ldhx (.imm (joinBytes jj kk)))
  | 0x46 => some (.inh .rora)
  | 0x47 => some (.inh .asra)
  | 0x48 => some (.inh .lsla)
  | 0x49 => some (.inh .rola)
  | 0x4A => some (.inh .deca)
  | 0x4C => some (.inh .inca)
  | 0x4D => some (.inh .tsta)
  | 0x4E => some (.two fun src dst => .mov (.dirDir src dst))
  | 0x4F => some (.inh .clra)
  | 0x50 => some (.inh .negx)
  | 0x52 => some (.inh .div)
  | 0x53 => some (.inh .comx)
  | 0x54 => some (.inh .lsrx)
  | 0x55 => some (.dir fun m => .ldhx (.mem m))
  | 0x56 => some (.inh .rorx)
  | 0x57 => some (.inh .asrx)
  | 0x58 => some (.inh .lslx)
  | 0x59 => some (.inh .rolx)
  | 0x5A => some (.inh .decx)
  | 0x5C => some (.inh .incx)
  | 0x5D => some (.inh .tstx)
  | 0x5E => some (.one fun dd => .mov (.dirIxp dd))
  | 0x5F => some (.inh .clrx)
  | 0x60 => some (.ix1 .neg)
  | 0x62 => some (.inh .nsa)
  | 0x63 => some (.ix1 .com)
  | 0x64 => some (.ix1 .lsr)
  | 0x65 => some (.two fun jj kk => .cphx (.imm (joinBytes jj kk)))
  | 0x66 => some (.ix1 .ror)
  | 0x67 => some (.ix1 .asr)
  | 0x68 => some (.ix1 .lsl)
  | 0x69 => some (.ix1 .rol)
  | 0x6A => some (.ix1 .dec)
  | 0x6C => some (.ix1 .inc)
  | 0x6D => some (.ix1 .tst)
  | 0x6E => some (.two fun ii dd => .mov (.immDir ii dd))
  | 0x6F => some (.ix1 .clr)
  | 0x70 => some (.ix .neg)
  | 0x72 => some (.inh .daa)
  | 0x73 => some (.ix .com)
  | 0x74 => some (.ix .lsr)
  | 0x75 => some (.dir fun m => .cphx (.mem m))
  | 0x76 => some (.ix .ror)
  | 0x77 => some (.ix .asr)
  | 0x78 => some (.ix .lsl)
  | 0x79 => some (.ix .rol)
  | 0x7A => some (.ix .dec)
  | 0x7C => some (.ix .inc)
  | 0x7D => some (.ix .tst)
  | 0x7E => some (.one fun dd => .mov (.ixpDir dd))
  | 0x7F => some (.ix .clr)
  | 0x84 => some (.inh .tap)
  | 0x85 => some (.inh .tpa)
  | 0x8C => some (.inh .clrh)
  | 0x90 => some (.one .bge)
  | 0x91 => some (.one .blt)
  | 0x92 => some (.one .bgt)
  | 0x93 => some (.one .ble)
  | 0x94 => some (.inh .txs)
  | 0x96 => some (.ext .sthx)
  | 0x97 => some (.inh .tax)
  | 0x9F => some (.inh .txa)
  | 0xA0 => some (.one fun ii => .sub (.imm ii))
  | 0xA1 => some (.one fun ii => .cmp (.imm ii))
  | 0xA2 => some (.one fun ii => .sbc (.imm ii))
  | 0xA3 => some (.one fun ii => .cpx (.imm ii))
  | 0xA4 => some (.one fun ii => .and (.imm ii))
  | 0xA5 => some (.one fun ii => .bit (.imm ii))
  | 0xA6 => some (.one fun ii => .lda (.imm ii))
  | 0xA7 => some (.one .ais)
  | 0xA8 => some (.one fun ii => .eor (.imm ii))
  | 0xA9 => some (.one fun ii => .adc (.imm ii))
  | 0xAA => some (.one fun ii => .ora (.imm ii))
  | 0xAB => some (.one fun ii => .add (.imm ii))
  | 0xAE => some (.one fun ii => .ldx (.imm ii))
  | 0xAF => some (.one .aix)
  | 0xB0 => some (.dir fun m => .sub (.mem m))
  | 0xB1 => some (.dir fun m => .cmp (.mem m))
  | 0xB2 => some (.dir fun m => .sbc (.mem m))
  | 0xB3 => some (.dir fun m => .cpx (.mem m))
  | 0xB4 => some (.dir fun m => .and (.mem m))
  | 0xB5 => some (.dir fun m => .bit (.mem m))
  | 0xB6 => some (.dir fun m => .lda (.mem m))
  | 0xB7 => some (.dir .sta)
  | 0xB8 => some (.dir fun m => .eor (.mem m))
  | 0xB9 => some (.dir fun m => .adc (.mem m))
  | 0xBA => some (.dir fun m => .ora (.mem m))
  | 0xBB => some (.dir fun m => .add (.mem m))
  | 0xBC => some (.dir .jmp)
  | 0xBE => some (.dir fun m => .ldx (.mem m))
  | 0xBF => some (.dir .stx)
  | 0xC0 => some (.ext fun m => .sub (.mem m))
  | 0xC1 => some (.ext fun m => .cmp (.mem m))
  | 0xC2 => some (.ext fun m => .sbc (.mem m))
  | 0xC3 => some (.ext fun m => .cpx (.mem m))
  | 0xC4 => some (.ext fun m => .and (.mem m))
  | 0xC5 => some (.ext fun m => .bit (.mem m))
  | 0xC6 => some (.ext fun m => .lda (.mem m))
  | 0xC7 => some (.ext .sta)
  | 0xC8 => some (.ext fun m => .eor (.mem m))
  | 0xC9 => some (.ext fun m => .adc (.mem m))
  | 0xCA => some (.ext fun m => .ora (.mem m))
  | 0xCB => some (.ext fun m => .add (.mem m))
  | 0xCC => some (.ext .jmp)
  | 0xCE => some (.ext fun m => .ldx (.mem m))
  | 0xCF => some (.ext .stx)
  | 0xD0 => some (.ix2 fun m => .sub (.mem m))
  | 0xD1 => some (.ix2 fun m => .cmp (.mem m))
  | 0xD2 => some (.ix2 fun m => .sbc (.mem m))
  | 0xD3 => some (.ix2 fun m => .cpx (.mem m))
  | 0xD4 => some (.ix2 fun m => .and (.mem m))
  | 0xD5 => some (.ix2 fun m => .bit (.mem m))
  | 0xD6 => some (.ix2 fun m => .lda (.mem m))
  | 0xD7 => some (.ix2 .sta)
  | 0xD8 => some (.ix2 fun m => .eor (.mem m))
  | 0xD9 => some (.ix2 fun m => .adc (.mem m))
  | 0xDA => some (.ix2 fun m => .ora (.mem m))
  | 0xDB => some (.ix2 fun m => .add (.mem m))
  | 0xDC => some (.ix2 .jmp)
  | 0xDE => some (.ix2 fun m => .ldx (.mem m))
  | 0xDF => some (.ix2 .stx)
  | 0xE0 => some (.ix1 fun m => .sub (.mem m))
  | 0xE1 => some (.ix1 fun m => .cmp (.mem m))
  | 0xE2 => some (.ix1 fun m => .sbc (.mem m))
  | 0xE3 => some (.ix1 fun m => .cpx (.mem m))
  | 0xE4 => some (.ix1 fun m => .and (.mem m))
  | 0xE5 => some (.ix1 fun m => .bit (.mem m))
  | 0xE6 => some (.ix1 fun m => .lda (.mem m))
  | 0xE7 => some (.ix1 .sta)
  | 0xE8 => some (.ix1 fun m => .eor (.mem m))
  | 0xE9 => some (.ix1 fun m => .adc (.mem m))
  | 0xEA => some (.ix1 fun m => .ora (.mem m))
  | 0xEB => some (.ix1 fun m => .add (.mem m))
  | 0xEC => some (.ix1 .jmp)
  | 0xEE => some (.ix1 fun m => .ldx (.mem m))
  | 0xEF => some (.ix1 .stx)
  | 0xF0 => some (.ix fun m => .sub (.mem m))
  | 0xF1 => some (.ix fun m => .cmp (.mem m))
  | 0xF2 => some (.ix fun m => .sbc (.mem m))
  | 0xF3 => some (.ix fun m => .cpx (.mem m))
  | 0xF4 => some (.ix fun m => .and (.mem m))
  | 0xF5 => some (.ix fun m => .bit (.mem m))
  | 0xF6 => some (.ix fun m => .lda (.mem m))
  | 0xF7 => some (.ix .sta)
  | 0xF8 => some (.ix fun m => .eor (.mem m))
  | 0xF9 => some (.ix fun m => .adc (.mem m))
  | 0xFA => some (.ix fun m => .ora (.mem m))
  | 0xFB => some (.ix fun m => .add (.mem m))
  | 0xFC => some (.ix .jmp)
  | 0xFE => some (.ix fun m => .ldx (.mem m))
  | 0xFF => some (.ix .stx)
  | _ => none

/-- The page-2 opcodes (R102): the byte after the pre-byte `$9E`. -/
def page2 (b1 : Byte) : Option Row :=
  match b1.toNat with
  | 0x60 => some (.sp1 .neg)
  | 0x63 => some (.sp1 .com)
  | 0x64 => some (.sp1 .lsr)
  | 0x66 => some (.sp1 .ror)
  | 0x67 => some (.sp1 .asr)
  | 0x68 => some (.sp1 .lsl)
  | 0x69 => some (.sp1 .rol)
  | 0x6A => some (.sp1 .dec)
  | 0x6C => some (.sp1 .inc)
  | 0x6D => some (.sp1 .tst)
  | 0x6F => some (.sp1 .clr)
  | 0xAE => some (.ix fun m => .ldhx (.mem m))
  | 0xBE => some (.ix2 fun m => .ldhx (.mem m))
  | 0xCE => some (.ix1 fun m => .ldhx (.mem m))
  | 0xD0 => some (.sp2 fun m => .sub (.mem m))
  | 0xD1 => some (.sp2 fun m => .cmp (.mem m))
  | 0xD2 => some (.sp2 fun m => .sbc (.mem m))
  | 0xD3 => some (.sp2 fun m => .cpx (.mem m))
  | 0xD4 => some (.sp2 fun m => .and (.mem m))
  | 0xD5 => some (.sp2 fun m => .bit (.mem m))
  | 0xD6 => some (.sp2 fun m => .lda (.mem m))
  | 0xD7 => some (.sp2 .sta)
  | 0xD8 => some (.sp2 fun m => .eor (.mem m))
  | 0xD9 => some (.sp2 fun m => .adc (.mem m))
  | 0xDA => some (.sp2 fun m => .ora (.mem m))
  | 0xDB => some (.sp2 fun m => .add (.mem m))
  | 0xDE => some (.sp2 fun m => .ldx (.mem m))
  | 0xDF => some (.sp2 .stx)
  | 0xE0 => some (.sp1 fun m => .sub (.mem m))
  | 0xE1 => some (.sp1 fun m => .cmp (.mem m))
  | 0xE2 => some (.sp1 fun m => .sbc (.mem m))
  | 0xE3 => some (.sp1 fun m => .cpx (.mem m))
  | 0xE4 => some (.sp1 fun m => .and (.mem m))
  | 0xE5 => some (.sp1 fun m => .bit (.mem m))
  | 0xE6 => some (.sp1 fun m => .lda (.mem m))
  | 0xE7 => some (.sp1 .sta)
  | 0xE8 => some (.sp1 fun m => .eor (.mem m))
  | 0xE9 => some (.sp1 fun m => .adc (.mem m))
  | 0xEA => some (.sp1 fun m => .ora (.mem m))
  | 0xEB => some (.sp1 fun m => .add (.mem m))
  | 0xEE => some (.sp1 fun m => .ldx (.mem m))
  | 0xEF => some (.sp1 .stx)
  | 0xF3 => some (.sp1 fun m => .cphx (.mem m))
  | 0xFE => some (.sp1 fun m => .ldhx (.mem m))
  | 0xFF => some (.sp1 .sthx)
  | _ => none

/-- Why a byte string is not an instruction. -/
inductive DecodeError where
  /-- The opcode, with its pre-byte if it has one, has no row (R103). -/
  | unspecifiedOpcode (bytes : List Byte)
  /-- The string ends before the instruction does. -/
  | truncated
deriving DecidableEq, Repr

/-- Reads a row's operand bytes. -/
def Row.decode : Row → List Byte → Except DecodeError (Instr × List Byte)
  | .none i, rest => .ok (i, rest)
  | .one mk, b :: rest => .ok (mk b, rest)
  | .two mk, b :: c :: rest => .ok (mk b c, rest)
  | .one _, [] | .two _, [] | .two _, [_] => .error .truncated

/-- Reads one instruction from a byte string and answers it with the bytes that follow it (R81, R103). Total. -/
def decode : List Byte → Except DecodeError (Instr × List Byte)
  | [] => .error .truncated
  | b0 :: rest =>
    if b0 = preByte then
      match rest with
      | [] => .error .truncated
      | b1 :: rest' =>
        match page2 b1 with
        | some row => row.decode rest'
        | none => .error (.unspecifiedOpcode [b0, b1])
    else
      match page1 b0 with
      | some row => row.decode rest
      | none => .error (.unspecifiedOpcode [b0])

/-- How many operand bytes follow a page-1 opcode; zero for one that has no row. -/
def operandCount1 (b0 : Byte) : Nat := ((page1 b0).map Row.operandCount).getD 0

/-- How many operand bytes follow a page-2 opcode; zero for one that has no row. -/
def operandCount2 (b1 : Byte) : Nat := ((page2 b1).map Row.operandCount).getD 0

/-! ### The encoder -/

/-- The bytes after the opcode of a mode. -/
def Mode.operands : Mode → List Byte
  | .dir dd => [dd]
  | .ext hhll => [hiByte hhll, loByte hhll]
  | .ix2 eeff => [hiByte eeff, loByte eeff]
  | .ix1 ff => [ff]
  | .ix => []
  | .sp2 eeff => [hiByte eeff, loByte eeff]
  | .sp1 ff => [ff]

/-- The eight-mode pattern (42_add_sub_mul_div.md) with low nibble `x`, its memory rows: `Bx`, `Cx`, `Dx`, `Ex`, `Fx`, `9E Dx`, `9E Ex`. -/
def Mode.encodeWide (x : Byte) (m : Mode) : List Byte :=
  (match m with
    | .dir _ => [0xB0#8 ||| x]
    | .ext _ => [0xC0#8 ||| x]
    | .ix2 _ => [0xD0#8 ||| x]
    | .ix1 _ => [0xE0#8 ||| x]
    | .ix => [0xF0#8 ||| x]
    | .sp2 _ => [preByte, 0xD0#8 ||| x]
    | .sp1 _ => [preByte, 0xE0#8 ||| x]) ++ m.operands

/-- The eight-mode pattern with its immediate row `Ax ii`. -/
def Operand8.encode (x : Byte) : Operand8 → List Byte
  | .imm ii => [0xA0#8 ||| x, ii]
  | .mem m => m.encodeWide x

/-- The six-operand pattern (43_other_arithmetic.md R189) with low nibble `y`, its memory rows: `3y`, `6y`, `7y`, `9E 6y`.
The modes that the pattern has not (they are not well-formed) have no bytes. -/
def Mode.encodeRmw (y : Byte) (m : Mode) : List Byte :=
  match m with
  | .dir _ => (0x30#8 ||| y) :: m.operands
  | .ix1 _ => (0x60#8 ||| y) :: m.operands
  | .ix => [0x70#8 ||| y]
  | .sp1 _ => preByte :: (0x60#8 ||| y) :: m.operands
  | .ext _ | .ix2 _ | .sp2 _ => []

/-- The rows of LDHX (40_load_store.md R122). -/
def Operand16.encodeLdhx : Operand16 → List Byte
  | .imm jjkk => [0x45#8, hiByte jjkk, loByte jjkk]
  | .mem m =>
    match m with
    | .dir _ => 0x55#8 :: m.operands
    | .ext _ => 0x32#8 :: m.operands
    | .ix => [preByte, 0xAE#8]
    | .ix2 _ => preByte :: 0xBE#8 :: m.operands
    | .ix1 _ => preByte :: 0xCE#8 :: m.operands
    | .sp1 _ => preByte :: 0xFE#8 :: m.operands
    | .sp2 _ => []

/-- The rows of STHX (R125). -/
def Mode.encodeSthx (m : Mode) : List Byte :=
  match m with
  | .dir _ => 0x35#8 :: m.operands
  | .ext _ => 0x96#8 :: m.operands
  | .sp1 _ => preByte :: 0xFF#8 :: m.operands
  | .ix2 _ | .ix1 _ | .ix | .sp2 _ => []

/-- The rows of CPHX (43_other_arithmetic.md R185). -/
def Operand16.encodeCphx : Operand16 → List Byte
  | .imm jjkk => [0x65#8, hiByte jjkk, loByte jjkk]
  | .mem m =>
    match m with
    | .dir _ => 0x75#8 :: m.operands
    | .ext _ => 0x3E#8 :: m.operands
    | .sp1 _ => preByte :: 0xF3#8 :: m.operands
    | .ix2 _ | .ix1 _ | .ix | .sp2 _ => []

/-- The rows of MOV (41_bit_move_transfer.md R142; 30_encoding.md R96 to R99). -/
def MovForm.encode : MovForm → List Byte
  | .dirDir src dst => [0x4E#8, src, dst]
  | .dirIxp dd => [0x5E#8, dd]
  | .immDir ii dd => [0x6E#8, ii, dd]
  | .ixpDir dd => [0x7E#8, dd]

/-- The rows of JMP (46_jump_branch.md R220): the eight-mode pattern without IMM, SP2 and SP1. -/
def Mode.encodeJmp (m : Mode) : List Byte :=
  match m with
  | .sp2 _ | .sp1 _ => []
  | .dir _ | .ext _ | .ix2 _ | .ix1 _ | .ix => m.encodeWide 0xC#8

/-- `%0001 nnn s` (30_encoding.md R95): `s` is 0 for BSET and 1 for BCLR. -/
def bitOpcode (n : Fin 8) (s : Nat) : Byte := BitVec.ofNat 8 (0x10 + 2 * n.val + s)

/-- The bytes of a well-formed instruction in memory order, lowest address first (R80). -/
def encode : Instr → List Byte
  | .lda o => o.encode 0x6#8
  | .ldhx o => o.encodeLdhx
  | .ldx o => o.encode 0xE#8
  | .sta m => m.encodeWide 0x7#8
  | .sthx m => m.encodeSthx
  | .stx m => m.encodeWide 0xF#8
  | .bset n dd => [bitOpcode n 0, dd]
  | .bclr n dd => [bitOpcode n 1, dd]
  | .mov f => f.encode
  | .tax => [0x97#8]
  | .txa => [0x9F#8]
  | .tap => [0x84#8]
  | .tpa => [0x85#8]
  | .nsa => [0x62#8]
  | .adc o => o.encode 0x9#8
  | .add o => o.encode 0xB#8
  | .ais ii => [0xA7#8, ii]
  | .aix ii => [0xAF#8, ii]
  | .sub o => o.encode 0x0#8
  | .sbc o => o.encode 0x2#8
  | .mul => [0x42#8]
  | .div => [0x52#8]
  | .inc m => m.encodeRmw 0xC#8
  | .inca => [0x4C#8]
  | .incx => [0x5C#8]
  | .dec m => m.encodeRmw 0xA#8
  | .deca => [0x4A#8]
  | .decx => [0x5A#8]
  | .clr m => m.encodeRmw 0xF#8
  | .clra => [0x4F#8]
  | .clrx => [0x5F#8]
  | .clrh => [0x8C#8]
  | .neg m => m.encodeRmw 0x0#8
  | .nega => [0x40#8]
  | .negx => [0x50#8]
  | .cmp o => o.encode 0x1#8
  | .cphx o => o.encodeCphx
  | .cpx o => o.encode 0x3#8
  | .tst m => m.encodeRmw 0xD#8
  | .tsta => [0x4D#8]
  | .tstx => [0x5D#8]
  | .daa => [0x72#8]
  | .and o => o.encode 0x4#8
  | .ora o => o.encode 0xA#8
  | .eor o => o.encode 0x8#8
  | .com m => m.encodeRmw 0x3#8
  | .coma => [0x43#8]
  | .comx => [0x53#8]
  | .bit o => o.encode 0x5#8
  | .lsl m => m.encodeRmw 0x8#8
  | .lsla => [0x48#8]
  | .lslx => [0x58#8]
  | .asl m => m.encodeRmw 0x8#8
  | .asla => [0x48#8]
  | .aslx => [0x58#8]
  | .lsr m => m.encodeRmw 0x4#8
  | .lsra => [0x44#8]
  | .lsrx => [0x54#8]
  | .asr m => m.encodeRmw 0x7#8
  | .asra => [0x47#8]
  | .asrx => [0x57#8]
  | .rol m => m.encodeRmw 0x9#8
  | .rola => [0x49#8]
  | .rolx => [0x59#8]
  | .ror m => m.encodeRmw 0x6#8
  | .rora => [0x46#8]
  | .rorx => [0x56#8]
  | .jmp m => m.encodeJmp
  | .bra rr => [0x20#8, rr]
  | .brn rr => [0x21#8, rr]
  | .bhi rr => [0x22#8, rr]
  | .bls rr => [0x23#8, rr]
  | .bcc rr => [0x24#8, rr]
  | .bhs rr => [0x24#8, rr]
  | .bcs rr => [0x25#8, rr]
  | .blo rr => [0x25#8, rr]
  | .bne rr => [0x26#8, rr]
  | .beq rr => [0x27#8, rr]
  | .bhcc rr => [0x28#8, rr]
  | .bhcs rr => [0x29#8, rr]
  | .bpl rr => [0x2A#8, rr]
  | .bmi rr => [0x2B#8, rr]
  | .bmc rr => [0x2C#8, rr]
  | .bms rr => [0x2D#8, rr]
  | .bil rr => [0x2E#8, rr]
  | .bih rr => [0x2F#8, rr]
  | .bge rr => [0x90#8, rr]
  | .blt rr => [0x91#8, rr]
  | .bgt rr => [0x92#8, rr]
  | .ble rr => [0x93#8, rr]
  | .txs => [0x94#8]

/-! ### The table's words -/

/-- The first `k` bytes of `w`, the least significant first. -/
def wordBytes : Nat → Nat → List Byte
  | 0, _ => []
  | k + 1, w => BitVec.ofNat 8 w :: wordBytes k (w / 256)

/-- The four bytes that an opcode-table word of `nbits` bits stands for, in memory order: byte 0 is bits 7 to 0 of `w`, and every
bit above `nbits` is 0 (four is the longest instruction, R80). -/
def tableBytes (nbits w : Nat) : List Byte := wordBytes 4 (w % 2 ^ nbits)

/-- The instruction the decoder reads from an opcode-table word. -/
def decodeTableWord (nbits w : Nat) : Option Instr :=
  match decode (tableBytes nbits w) with
  | .ok (i, _) => some i
  | .error _ => none

end Sys2Proof
end

