-- ==== Sys2Proof/Config.lean ====
section
/-! DEFINITION. What the implementation or the platform fixes and the spec leaves free. Each free value of the spec (its
`draw`, 00_scope.md R11) is a constant with no body, applied to the draw counter of the state: no proof can see what it is. -/
namespace Sys2Proof

/-- One access that the platform behind an IO location sees (20_memory.md R57, R60). -/
inductive IoEvent where
  /-- A `MemRead(addr, 1)` and the byte the platform answered. -/
  | read (addr : Addr) (value : Byte)
  /-- A `MemWrite(addr, 1, value)`. -/
  | write (addr : Addr) (value : Byte)
deriving DecidableEq, Repr

/-- What a read of an IO location answers (20_memory.md R58 `Platform.io_read`, R60; 93 U4): any byte, which may depend on every
access the platform has seen so far and may differ from one sample to the next. DESIGN CHOICE (log 9), safe. -/
opaque Config.ioRead : List IoEvent → Addr → Nat → Byte

/-- The level of the IRQ pin at the given sample, `true` for high (10_state.md R43, 46_jump_branch.md R236, D11). Safe (log 8). -/
opaque Config.irqPin : Nat → Bool

/-- V after DAA: the table's `U` (43_other_arithmetic.md R188, 93 U1). Safe (log 8). -/
opaque Config.daaV : Nat → Bool

/-- `daa_fn(A, H, C)`: A and C after a DAA whose input matches no row of the table (R188, D12, 93 U2). Safe (log 8). -/
opaque Config.daaFn : Byte → Bool → Bool → Nat → Byte × Bool

/-- `div_undef`: A after a DIV that sets C, from H, A, X before it (42_add_sub_mul_div.md R167, D13, 93 U3). Safe (log 8). -/
opaque Config.divUndefA : Byte → Byte → Byte → Nat → Byte

/-- `div_undef`: H after a DIV that sets C (R167, D13). Safe (log 8). -/
opaque Config.divUndefH : Byte → Byte → Byte → Nat → Byte

/-- `div_undef`: Z after a DIV that sets C (R167, D13). Safe (log 8). -/
opaque Config.divUndefZ : Byte → Byte → Byte → Nat → Bool

/-- With `cautious_flags`: C after INC, DEC, TST, CLR (00_scope.md R6, D17). Safe (log 8). -/
opaque Config.cautiousCarry : Nat → Bool

/-- With `cautious_flags`: V after a shift or a rotate (00_scope.md R6, D19). Safe (log 8). -/
opaque Config.cautiousOverflow : Nat → Bool

end Sys2Proof
end

