-- ==== Sys2Proof/Machine/Memory.lean ====
section
/-! DEFINITION. Memory as data: its one canonical form, reading and writing a byte of it, and the reset vector that it holds
(20_memory.md R50; 70_reset_and_hazards.md R291). -/
namespace Sys2Proof.Machine

open Sys2Proof

/-- Memory: the locations whose byte is not `$00`, addresses strictly rising (R50; log 3). -/
abbrev Memory := List Host.Cell

/-- What an unlisted location reads as. DESIGN CHOICE (log 3), unsafe. -/
def unlistedByte : Byte := 0x00#8

/-- The byte at an address. -/
def Memory.read : Memory → Nat → Byte
  | [], _ => unlistedByte
  | (k, b) :: t, a => if k = a then b else Memory.read t a

/-- Puts a byte at an address and keeps the canonical form: rising addresses, no entry equal to `unlistedByte`. -/
def Memory.write : Memory → Nat → Byte → Memory
  | [], a, v => if v = unlistedByte then [] else [(a, v)]
  | (k, b) :: t, a, v =>
    if a < k then (if v = unlistedByte then (k, b) :: t else (a, v) :: (k, b) :: t)
    else if a = k then (if v = unlistedByte then t else (a, v) :: t)
    else (k, b) :: Memory.write t a v

/-- Every address is at least `lo` and rises, stays in the 64-Kbyte space, and no entry is `unlistedByte`. -/
def Memory.wfFrom : Nat → Memory → Bool
  | _, [] => true
  | lo, (k, b) :: t => decide (lo ≤ k) && decide (k < 65536) && decide (b ≠ unlistedByte) && Memory.wfFrom (k + 1) t

/-- The canonical form of memory: equal memories are equal lists. -/
def Memory.wf (m : Memory) : Bool := Memory.wfFrom 0 m

/-- The word at the reset vector: its high byte is at `$FFFE`, its low byte at `$FFFF` (70_reset_and_hazards.md R291, 10_state.md R44). -/
def Memory.resetVector (m : Memory) : Addr := joinBytes (m.read 0xFFFE) (m.read 0xFFFF)

end Sys2Proof.Machine
end

