-- ==== Sys2Proof/Machine/State.lean ====
section
/-! DEFINITION. The state of the machine, its reset value, and the reasons a step can stop (10_state.md, 60_exceptions.md R271). -/
namespace Sys2Proof.Machine

open Sys2Proof

/-- The condition code register (10_state.md R31). Bits 6 and 5 are fixed at one and are not state (R32, D14). -/
structure Ccr where
  /-- V, overflow, bit 7 (R33). -/
  v : Bool
  /-- H, half carry, bit 4 (R34). -/
  h : Bool
  /-- I, interrupt mask, bit 3 (R35). -/
  i : Bool
  /-- N, negative, bit 2 (R36). -/
  n : Bool
  /-- Z, zero, bit 1 (R37). -/
  z : Bool
  /-- C, carry or borrow, bit 0 (R38). -/
  c : Bool
deriving DecidableEq, Repr

/-- What stands at an address (20_memory.md R58). -/
inductive RegionKind where
  /-- A RAM location. -/
  | ram
  /-- A nonvolatile location: a CPU write does not change it (R59). -/
  | nvm
  /-- A control or I/O register of the platform (R60). -/
  | io
  /-- Nothing: an access is refused (R58, R271). -/
  | none
deriving DecidableEq, Repr

/-- The addresses from `first` to `last`, both included. -/
structure AddrRange where
  first : Addr
  last : Addr
deriving DecidableEq, Repr

/-- One entry of the region map. -/
structure Region where
  range : AddrRange
  kind : RegionKind
deriving DecidableEq, Repr

/-- The named parameters of 00_scope.md R6 that a run keeps constant. A statement about every state is a statement about every value. -/
structure Params where
  /-- `Platform.region` (20_memory.md R58, D5): the first entry that holds an address says its kind; under no entry it is RAM (log 4). -/
  regions : List Region
  /-- The program text fixed at launch (R66, D7; log 5). -/
  programText : List AddrRange
  /-- `halt_addr`, where a run ends (D20; log 6). -/
  haltAddr : Option Addr
  /-- `refuse_high_offsets` (D2; log 7). -/
  refuseHighOffsets : Bool
  /-- `cautious_flags` (D17, D19; log 7). -/
  cautiousFlags : Bool
  /-- `refuse_nvm_write` (D29; log 7). -/
  refuseNvmWrite : Bool
  /-- `accept_txs` (D8; log 7). -/
  acceptTxs : Bool
deriving DecidableEq, Repr

/-- The state of the machine (10_state.md R20, R43; 00_scope.md R6). H:X is not stored: it is `h` and `x` (R24). -/
structure State where
  /-- A, the accumulator (R21). -/
  a : Byte
  /-- X, the low byte of H:X (R22). -/
  x : Byte
  /-- H, the high byte of H:X (R23). -/
  h : Byte
  /-- SP, the stack pointer (R26). -/
  sp : Addr
  /-- PC, the program counter (R28). -/
  pc : Addr
  /-- CCR, the condition code register (R31). -/
  ccr : Ccr
  /-- The 64-Kbyte memory, RAM and NVM bytes (R42, 20_memory.md R50). -/
  mem : Memory
  /-- The accesses the platform has seen at IO locations, newest first: the state behind IO locations (R43(b), R60; log 9). -/
  ioLog : List IoEvent
  /-- The parameters of the launch and the platform (00_scope.md R6). -/
  params : Params
  /-- The model's own: how many free values have been drawn (R11 `draw`; log 8). -/
  draws : Nat
deriving DecidableEq, Repr

/-- Why the machine stops. No instruction in scope raises an exception, trap or fault (60_exceptions.md R270); the one reason is
the end of a run. -/
inductive Fault where
  /-- Raised by `step` when pc is the run's halt address, before a fetch (92_eei_decisions.md D20; log 6). Safe: the hardware goes on. -/
  | halted (addr : Addr)
deriving DecidableEq, Repr

/-- The model refusals (60_exceptions.md R271): the outcomes by which the model declines to say what the hardware does. No state
change of the refused instruction is visible. -/
inductive Refusal where
  /-- Raised by `exec` for an instruction that has no meaning yet. Safe. -/
  | notModelled (mnemonic : String)
  /-- Raised by the fetch when the bytes at pc are no row of R101 or R102 (R103), and by TXS when it is not accepted (D8). Safe. -/
  | unspecifiedOpcode (bytes : List Byte)
  /-- Raised by a read, a write or a fetch at an address where nothing stands (20_memory.md R58). Safe. -/
  | unmappedAccess (addr : Addr)
  /-- Raised by a write into the program text (R66, D7). Safe. -/
  | writeToProgramText (addr : Addr)
  /-- Raised by a write to an NVM location, only with `refuse_nvm_write` (D29). Safe. -/
  | nvmWrite (addr : Addr)
  /-- Raised by an IX1 or SP1 offset of `$80` to `$FF`, only with `refuse_high_offsets` (D2). Safe. -/
  | highOffset (offset : Byte)
deriving DecidableEq, Repr

/-- The parameters right after reset: the four switches at the defaults that 00_scope.md R6 states, every address RAM, no declared program
text, no halt address. The last three are DESIGN CHOICES (logs 4, 5, 6), unsafe but for the halt address. -/
def Params.reset : Params where
  regions := []
  programText := []
  haltAddr := none
  refuseHighOffsets := false
  cautiousFlags := false
  refuseNvmWrite := false
  acceptTxs := false

/-- The machine right after a reset with memory and parameters already there: a program loaded from outside (D10; log 24), and the platform.
PC is the reset vector (70_reset_and_hazards.md R291). The spec states no other value but CCR bits 6 and 5 (10_state.md R44). H, SP, I and
the load of PC from the vector are PRESUMED, the family's (log 1). A, X, V, half carry, N, Z, C are zero by DESIGN CHOICE (log 2). Unsafe. -/
def State.resetWith (mem : Memory) (params : Params) : State where
  a := 0x00#8
  x := 0x00#8
  h := 0x00#8
  sp := 0x00FF#16
  pc := mem.resetVector
  ccr := { v := false, h := false, i := true, n := false, z := false, c := false }
  mem
  ioLog := []
  params
  draws := 0

/-- The machine right after reset with nothing loaded: a memory with nothing listed, by DESIGN CHOICE (log 3), unsafe. -/
def State.reset : State := State.resetWith [] Params.reset

end Sys2Proof.Machine
end

