-- ==== Sys2Proof/Machine/Ops.lean ====
section
/-! DEFINITION. The operations over memory and registers that every meaning shares (10_state.md, 20_memory.md). There is no exception to
take and none to return from: no instruction in scope raises one and the spec describes no entry (60_exceptions.md R270, R276, R277). -/
namespace Sys2Proof.Machine

open Sys2Proof

/-- What an operation answers: a value, or the reason the run stops. -/
abbrev Result (α : Type) := Host.Outcome α Fault Refusal

/-- Runs `f` on the value of `r`; a fault or a refusal stops (R271: the first refusal met wins). -/
def andThen {α β : Type} (r : Result α) (f : α → Result β) : Result β :=
  match r with
  | .next x => f x
  | .fault e => .fault e
  | .refused e => .refused e

/-! ### Registers -/

/-- H:X, the index register pair (10_state.md R24). -/
def State.hx (s : State) : Addr := joinBytes s.h s.x

/-- `A <- v`. -/
def State.withA (s : State) (v : Byte) : State := { s with a := v }

/-- `X <- v`; H is left as it is (R22, R24). -/
def State.withX (s : State) (v : Byte) : State := { s with x := v }

/-- `H <- v`; X is left as it is (R24). -/
def State.withH (s : State) (v : Byte) : State := { s with h := v }

/-- `HX <- v` (00_scope.md R11): H gets the high byte, X the low one. -/
def State.withHX (s : State) (v : Addr) : State := { s with h := hiByte v, x := loByte v }

/-- `SP <- v`. -/
def State.withSP (s : State) (v : Addr) : State := { s with sp := v }

/-- `pc <- v`. -/
def State.withPC (s : State) (v : Addr) : State := { s with pc := v }

/-- Writes the six flags. -/
def State.withCcr (s : State) (f : Ccr) : State := { s with ccr := f }

/-- Writes the memory. -/
def State.withMem (s : State) (m : Memory) : State := { s with mem := m }

/-- The platform sees one more access. -/
def State.logIo (s : State) (e : IoEvent) : State := { s with ioLog := e :: s.ioLog }

/-- One more free value is taken (00_scope.md R11 `draw`). -/
def State.drawn (s : State) : State := { s with draws := s.draws + 1 }

/-- The CCR as a byte, `V 1 1 H I N Z C` from bit 7 down (10_state.md R31, R32). -/
def Ccr.toByte (f : Ccr) : Byte :=
  BitVec.ofBool f.v ++ 0b11#2 ++ BitVec.ofBool f.h ++ BitVec.ofBool f.i ++ BitVec.ofBool f.n ++ BitVec.ofBool f.z ++ BitVec.ofBool f.c

/-- The flags that a byte loads into the CCR; bits 6 and 5 are ignored (R32, 41_bit_move_transfer.md R145). -/
def Ccr.ofByte (b : Byte) : Ccr where
  v := b.getLsbD 7
  h := b.getLsbD 4
  i := b.getLsbD 3
  n := b.getLsbD 2
  z := b.getLsbD 1
  c := b.getLsbD 0

/-! ### Memory and regions (20_memory.md R58) -/

/-- The byte that memory holds at a 16-bit address. -/
def State.byteAt (s : State) (a : Addr) : Byte := s.mem.read a.toNat

/-- The range holds the address. -/
def AddrRange.holds (r : AddrRange) (a : Addr) : Bool := decide (r.first ≤ a) && decide (a ≤ r.last)

/-- The kind that the first entry holding the address gives it; RAM under no entry. DESIGN CHOICE for the last (log 4), unsafe. -/
def regionIn : List Region → Addr → RegionKind
  | [], _ => .ram
  | r :: t, a => if r.range.holds a then r.kind else regionIn t a

/-- `Platform.region(a)` (R58). -/
def State.region (s : State) (a : Addr) : RegionKind := regionIn s.params.regions a

/-- The address lies in the program text fixed at launch (R66). -/
def State.inProgramText (s : State) (a : Addr) : Bool := s.params.programText.any fun r => r.holds a

/-! ### Access to memory (R52 to R60) -/

/-- The byte that `MemRead(a, 1)` answers where something stands: from an IO location a free value (R58, R60). -/
def loadValue (a : Addr) (s : State) : Byte :=
  if s.region a = .io then Config.ioRead s.ioLog a s.draws else s.byteAt a

/-- The state after `MemRead(a, 1)`: the platform sees a read of an IO location; nothing else changes. -/
def afterLoad (a : Addr) (s : State) : State :=
  if s.region a = .io then (s.logIo (.read a (loadValue a s))).drawn else s

/-- `MemRead(a, 1)` (R52, R58). -/
def memRead (a : Addr) (s : State) : Result (Byte × State) :=
  if s.region a = .none then .refused (.unmappedAccess a) else .next (loadValue a s, afterLoad a s)

/-- The state after `MemWrite(a, 1, v)`: RAM takes the byte, NVM keeps its own (R59), the platform sees a write to an IO location. -/
def afterStore (a : Addr) (v : Byte) (s : State) : State :=
  match s.region a with
  | .ram => s.withMem (s.mem.write a.toNat v)
  | .io => s.logIo (.write a v)
  | .nvm | .none => s

/-- Why `MemWrite(a, 1, _)` is refused, if it is: nothing stands there, or the program text does (R271), or NVM does with
`refuse_nvm_write` (D29). The order is a DESIGN CHOICE (log 10), safe. -/
def storeRefusal (a : Addr) (s : State) : Option Refusal :=
  if s.region a = .none then some (.unmappedAccess a)
  else if s.inProgramText a then some (.writeToProgramText a)
  else if s.region a = .nvm ∧ s.params.refuseNvmWrite then some (.nvmWrite a)
  else none

/-- `MemWrite(a, 1, v)` (R52, R58, R59, R66). -/
def memWrite (a : Addr) (v : Byte) (s : State) : Result State :=
  match storeRefusal a s with
  | some r => .refused r
  | none => .next (afterStore a v s)

/-- `MemRead(a, 2)`: the high byte at `a` first, then the low byte at `a + 1` (R53). -/
def memRead16 (a : Addr) (s : State) : Result (Addr × State) :=
  andThen (memRead a s) fun (hi, s1) =>
    andThen (memRead (a + 1) s1) fun (lo, s2) => .next (joinBytes hi lo, s2)

/-- `MemWrite(a, 2, v)`: the high byte to `a` first, then the low byte to `a + 1` (R54). -/
def memWrite16 (a : Addr) (v : Addr) (s : State) : Result State :=
  andThen (memWrite a (hiByte v) s) fun s1 => memWrite (a + 1) (loByte v) s1

/-! ### The end of an instruction -/

/-- `next`: the address of the byte after the last byte of the instruction at pc (30_encoding.md R83). -/
def nextAddr (i : Instr) (s : State) : Addr := s.pc + BitVec.ofNat 16 i.size

/-- Ends an instruction with `pc <- next` (10_state.md R29). -/
def finish (i : Instr) (s : State) : Result State := .next (s.withPC (nextAddr i s))

end Sys2Proof.Machine
end

