-- ==== Sys2Proof/Machine/Flags.lean ====
section
/-! DEFINITION. The flag computations (00_scope.md R11, R12; 10_state.md R33 to R39). -/
namespace Sys2Proof.Machine

open Sys2Proof

/-- What `add8` answers (R11). -/
structure Sum8 where
  r : Byte
  h : Bool
  cy : Bool
  v : Bool
deriving DecidableEq, Repr

/-- What `sub8` answers (R11). -/
structure Diff8 where
  r : Byte
  bw : Bool
  v : Bool
deriving DecidableEq, Repr

/-- What `sub16` answers (R11). -/
structure Diff16 where
  r : Addr
  bw : Bool
  v : Bool
deriving DecidableEq, Repr

/-- `add8(a, m, c)` (R11, D16; log 13). -/
def add8 (a m : Byte) (c : Bool) : Sum8 :=
  let s := a.toNat + m.toNat + c.toNat
  let r := BitVec.ofNat 8 s
  { r
    h := decide (a.toNat % 16 + m.toNat % 16 + c.toNat ≥ 16)
    cy := decide (s ≥ 256)
    v := a.msb == m.msb && r.msb != a.msb }

/-- `sub8(a, m, b)` (R11, D16; log 13). -/
def sub8 (a m : Byte) (b : Bool) : Diff8 :=
  let d : Int := (a.toNat : Int) - m.toNat - b.toNat
  let r := BitVec.ofInt 8 d
  { r, bw := decide (d < 0), v := a.msb != m.msb && r.msb != a.msb }

/-- `sub16(a, m)` (R11, D16; log 13). -/
def sub16 (a m : Addr) : Diff16 :=
  let d : Int := (a.toNat : Int) - m.toNat
  let r := BitVec.ofInt 16 d
  { r, bw := decide (d < 0), v := a.msb != m.msb && r.msb != a.msb }

/-- `NZ8(r)` (R11). -/
def Ccr.nz8 (f : Ccr) (r : Byte) : Ccr := { f with n := r.msb, z := r == 0 }

/-- `NZ16(r)` (R11, D24; log 17). -/
def Ccr.nz16 (f : Ccr) (r : Addr) : Ccr := { f with n := r.msb, z := r == 0 }

/-- `CCR.V <- 0 ; NZ8(r)`: loads, stores, MOV, TST and the logical instructions (10_state.md R39). -/
def Ccr.moved8 (f : Ccr) (r : Byte) : Ccr := { f.nz8 r with v := false }

/-- `CCR.V <- 0 ; NZ16(r)`: LDHX and STHX (R39). -/
def Ccr.moved16 (f : Ccr) (r : Addr) : Ccr := { f.nz16 r with v := false }

/-- `CCR.V <- v ; CCR.H <- h ; NZ8(r) ; CCR.C <- cy`: ADD and ADC (R39). -/
def Ccr.added (f : Ccr) (s : Sum8) : Ccr := { f.nz8 s.r with v := s.v, h := s.h, c := s.cy }

/-- `CCR.V <- v ; NZ8(r) ; CCR.C <- bw`: SUB, SBC, CMP, CPX, NEG (R39). -/
def Ccr.subtracted (f : Ccr) (d : Diff8) : Ccr := { f.nz8 d.r with v := d.v, c := d.bw }

/-- `CCR.V <- v ; NZ16(r) ; CCR.C <- bw`: CPHX (R39). -/
def Ccr.subtracted16 (f : Ccr) (d : Diff16) : Ccr := { f.nz16 d.r with v := d.v, c := d.bw }

/-- `CCR.C <- out ; NZ8(r)` and V = N xor C after the operation: every shift and rotate (45_shift_rotate.md R210, D19; log 15). -/
def Ccr.shifted (f : Ccr) (r : Byte) (out : Bool) : Ccr := { f.nz8 r with v := r.msb != out, c := out }

/-- C after INC, DEC, TST, CLR: kept, or a free value with `cautious_flags` (00_scope.md R6, D17; logs 7, 8). -/
def cautiousC (s : State) : State :=
  if s.params.cautiousFlags then (s.withCcr { s.ccr with c := Config.cautiousCarry s.draws }).drawn else s

/-- V after a shift or rotate: as computed, or a free value with `cautious_flags` (R6, D19; logs 7, 8). -/
def cautiousV (s : State) : State :=
  if s.params.cautiousFlags then (s.withCcr { s.ccr with v := Config.cautiousOverflow s.draws }).drawn else s

end Sys2Proof.Machine
end

