-- ==== Sys2Proof/Machine/Operands.lean ====
section
/-! DEFINITION. The operand forms: effective addresses (30_encoding.md R87 to R93), source operands (R85, R86), and the
read-modify-write pattern (43_other_arithmetic.md R189). -/
namespace Sys2Proof.Machine

open Sys2Proof

/-- The effective address M of a mode (30_encoding.md R87 to R93); every sum wraps modulo 2^16 (20_memory.md R68). -/
def modeAddr (m : Mode) (s : State) : Addr :=
  match m with
  | .dir dd => zext16 dd
  | .ext hhll => hhll
  | .ix2 eeff => s.hx + eeff
  | .ix1 ff => s.hx + zext16 ff
  | .ix => s.hx
  | .sp2 eeff => s.sp + eeff
  | .sp1 ff => s.sp + zext16 ff

/-- Why a mode is refused, if it is: an IX1 or SP1 offset of `$80` to `$FF` with `refuse_high_offsets` (00_scope.md R6, D2; log 16). -/
def modeRefusal (m : Mode) (s : State) : Option Refusal :=
  match m with
  | .ix1 ff | .sp1 ff => if s.params.refuseHighOffsets && ff.msb then some (.highOffset ff) else none
  | .dir _ | .ext _ | .ix2 _ | .ix | .sp2 _ => none

/-- The effective address, or the refusal of its offset, which comes before any access. -/
def effAddr (m : Mode) (s : State) : Result Addr :=
  match modeRefusal m s with
  | some r => .refused r
  | none => .next (modeAddr m s)

/-- `m = (mode == IMM) ? ii : MemRead(M, 1)` (42_add_sub_mul_div.md). -/
def readOperand8 (o : Operand8) (s : State) : Result (Byte × State) :=
  match o with
  | .imm ii => .next (ii, s)
  | .mem m => andThen (effAddr m s) fun ea => memRead ea s

/-- `(mode == IMM) ? jj:kk : MemRead(M, 2)` (40_load_store.md R122, 43_other_arithmetic.md R185). -/
def readOperand16 (o : Operand16) (s : State) : Result (Addr × State) :=
  match o with
  | .imm jjkk => .next (jjkk, s)
  | .mem m => andThen (effAddr m s) fun ea => memRead16 ea s

/-- `MemWrite(M, 1, v)`. -/
def storeMode (m : Mode) (v : Byte) (s : State) : Result State :=
  andThen (effAddr m s) fun ea => memWrite ea v s

/-- `MemWrite(M, 2, v)`. -/
def storeMode16 (m : Mode) (v : Addr) (s : State) : Result State :=
  andThen (effAddr m s) fun ea => memWrite16 ea v s

/-- What a read-modify-write instruction computes from its operand `t`: the result and the state with the flags set (R189). -/
abbrev UnaryOp := Byte → State → Byte × State

/-- The memory form: `MemRead(M, 1)`, the operation, then `MemWrite(M, 1, r)`, always both (20_memory.md R57). -/
def rmwMem (op : UnaryOp) (m : Mode) (i : Instr) (s : State) : Result State :=
  andThen (effAddr m s) fun ea =>
    andThen (memRead ea s) fun (t, s1) =>
      andThen (memWrite ea (op t s1).1 (op t s1).2) fun s2 => finish i s2

/-- The A form: `t = A`, `A <- r`. -/
def rmwA (op : UnaryOp) (i : Instr) (s : State) : Result State :=
  finish i ((op s.a s).2.withA (op s.a s).1)

/-- The X form: `t = X`, `X <- r`; H is left as it is. -/
def rmwX (op : UnaryOp) (i : Instr) (s : State) : Result State :=
  finish i ((op s.x s).2.withX (op s.x s).1)

/-- An instruction that only reads an 8-bit operand and updates the state from it. -/
def withOperand8 (o : Operand8) (f : Byte → State → State) (i : Instr) (s : State) : Result State :=
  andThen (readOperand8 o s) fun (m, s1) => finish i (f m s1)

/-- An instruction that only reads a 16-bit operand and updates the state from it. -/
def withOperand16 (o : Operand16) (f : Addr → State → State) (i : Instr) (s : State) : Result State :=
  andThen (readOperand16 o s) fun (m, s1) => finish i (f m s1)

end Sys2Proof.Machine
end

