-- ==== Sys2Proof/Machine/AddSubMulDiv.lean ====
section
/-! DEFINITION. Add, subtract, multiply, divide (42_add_sub_mul_div.md R160 to R168). -/
namespace Sys2Proof.Machine

open Sys2Proof

/-- `A <- r` of a sum and its flags (R160, R161). -/
def takeSum (d : Sum8) (s : State) : State := (s.withA d.r).withCcr (s.ccr.added d)

/-- `A <- r` of a difference and its flags (R164, R165). -/
def takeDiff (d : Diff8) (s : State) : State := (s.withA d.r).withCcr (s.ccr.subtracted d)

/-- ADC: `A <- (A) + (M) + (C)` (R160). -/
def execAdc (o : Operand8) (s : State) : Result State :=
  withOperand8 o (fun m s1 => takeSum (add8 s1.a m s1.ccr.c) s1) (.adc o) s

/-- ADD: `A <- (A) + (M)` (R161). -/
def execAdd (o : Operand8) (s : State) : Result State :=
  withOperand8 o (fun m s1 => takeSum (add8 s1.a m false) s1) (.add o) s

/-- AIS: `SP <- (SP) + (M)`, the immediate signed; no flag changes (R162). -/
def execAis (ii : Byte) (s : State) : Result State := finish (.ais ii) (s.withSP (s.sp + sext16 ii))

/-- AIX: `H:X <- (H:X) + (M)`, the immediate signed; no flag changes (R163). -/
def execAix (ii : Byte) (s : State) : Result State := finish (.aix ii) (s.withHX (s.hx + sext16 ii))

/-- SUB: `A <- (A) - (M)` (R164). -/
def execSub (o : Operand8) (s : State) : Result State :=
  withOperand8 o (fun m s1 => takeDiff (sub8 s1.a m false) s1) (.sub o) s

/-- SBC: `A <- (A) - (M) - (C)` (R165). -/
def execSbc (o : Operand8) (s : State) : Result State :=
  withOperand8 o (fun m s1 => takeDiff (sub8 s1.a m s1.ccr.c) s1) (.sbc o) s

/-- MUL: `X:A <- (X) x (A)`, unsigned; H flag and C are cleared (R166). -/
def execMul (s : State) : Result State :=
  let p := BitVec.ofNat 16 (s.x.toNat * s.a.toNat)
  finish .mul (((s.withX (hiByte p)).withA (loByte p)).withCcr { s.ccr with h := false, c := false })

/-- The dividend H:A, unsigned (R167). -/
def dividend (s : State) : Nat := (joinBytes s.h s.a).toNat

/-- DIV sets C: the divisor is zero or the quotient is above 255 (R167). -/
def divFails (s : State) : Bool := decide (s.x.toNat = 0) || decide (dividend s / s.x.toNat > 255)

/-- What DIV leaves where it sets C: A, H and Z are free values; X and the other flags stay (R167, D13; log 8). -/
def divOpen (s : State) : State :=
  (((s.withA (Config.divUndefA s.h s.a s.x s.draws)).withH (Config.divUndefH s.h s.a s.x s.draws)).withCcr
    { s.ccr with z := Config.divUndefZ s.h s.a s.x s.draws, c := true }).drawn

/-- What DIV leaves otherwise: A the quotient, H the remainder, Z of the quotient, C clear (R167). -/
def divDone (s : State) : State :=
  let q := BitVec.ofNat 8 (dividend s / s.x.toNat)
  ((s.withA q).withH (BitVec.ofNat 8 (dividend s % s.x.toNat))).withCcr { s.ccr with z := q == 0, c := false }

/-- DIV: `A <- (H:A) / (X); H <- Remainder` (R167). -/
def execDiv (s : State) : Result State := finish .div (if divFails s then divOpen s else divDone s)

end Sys2Proof.Machine
end

