-- ==== Sys2Proof/Machine/BitMoveTransfer.lean ====
section
/-! DEFINITION. Bit set and clear, move, transfers, nibble swap (41_bit_move_transfer.md R140 to R148). -/
namespace Sys2Proof.Machine

open Sys2Proof

/-- `t | (1 << n)` (R140). -/
def setBit (n : Fin 8) (t : Byte) : Byte := t ||| 1#8 <<< n.val

/-- `t & ~(1 << n)` (R141). -/
def clearBit (n : Fin 8) (t : Byte) : Byte := t &&& ~~~(1#8 <<< n.val)

/-- BSET n: `Mn <- 1`, a read of the whole byte and a write of the whole byte; no flag changes (R140, R148). -/
def execBset (n : Fin 8) (dd : Byte) (s : State) : Result State :=
  rmwMem (fun t s1 => (setBit n t, s1)) (.dir dd) (.bset n dd) s

/-- BCLR n: `Mn <- 0` (R141, R148). -/
def execBclr (n : Fin 8) (dd : Byte) (s : State) : Result State :=
  rmwMem (fun t s1 => (clearBit n t, s1)) (.dir dd) (.bclr n dd) s

/-- Writes the moved byte and sets the flags from it: `MemWrite(dst, 1, v) ; CCR.V <- 0 ; NZ8(v)` (R142). -/
def moveTo (dst : Addr) (v : Byte) (s : State) : Result State :=
  andThen (memWrite dst v s) fun s1 => .next (s1.withCcr (s1.ccr.moved8 v))

/-- `HX <- HX + 1`, after both accesses of an X+ form (R142). -/
def postIncrement (s : State) : State := s.withHX (s.hx + 1)

/-- MOV: `(M)destination <- (M)source` in its four forms (R142). -/
def execMov (f : MovForm) (s : State) : Result State :=
  match f with
  | .dirDir src dst =>
    andThen (memRead (zext16 src) s) fun (v, s1) => andThen (moveTo (zext16 dst) v s1) fun s2 => finish (.mov f) s2
  | .dirIxp dd =>
    andThen (memRead (zext16 dd) s) fun (v, s1) => andThen (moveTo s.hx v s1) fun s2 => finish (.mov f) (postIncrement s2)
  | .immDir ii dd => andThen (moveTo (zext16 dd) ii s) fun s1 => finish (.mov f) s1
  | .ixpDir dd =>
    andThen (memRead s.hx s) fun (v, s1) => andThen (moveTo (zext16 dd) v s1) fun s2 => finish (.mov f) (postIncrement s2)

/-- TAX: `X <- (A)`; no flag changes (R143). -/
def execTax (s : State) : Result State := finish .tax (s.withX s.a)

/-- TXA: `A <- (X)`; no flag changes (R144). -/
def execTxa (s : State) : Result State := finish .txa (s.withA s.x)

/-- TAP: `CCR <- (A)`; A[6] and A[5] are ignored (R145). -/
def execTap (s : State) : Result State := finish .tap (s.withCcr (Ccr.ofByte s.a))

/-- TPA: `A <- (CCR)`; bits 6 and 5 read as one (R146). -/
def execTpa (s : State) : Result State := finish .tpa (s.withA s.ccr.toByte)

/-- `A[3:0] : A[7:4]` (R147). -/
def swapNibbles (b : Byte) : Byte := b.extractLsb' 0 4 ++ b.extractLsb' 4 4

/-- NSA: `A <- (A[3:0]:A[7:4])`; no flag changes (R147). -/
def execNsa (s : State) : Result State := finish .nsa (s.withA (swapNibbles s.a))

end Sys2Proof.Machine
end

