-- ==== Sys2Proof/Machine/JumpBranch.lean ====
section
/-! DEFINITION. JMP and the branches (46_jump_branch.md R220 to R241). No flag, no register but PC and no memory changes. -/
namespace Sys2Proof.Machine

open Sys2Proof

/-- JMP: `pc <- M`; no data is read (R220). -/
def execJmp (m : Mode) (s : State) : Result State := andThen (effAddr m s) fun ea => .next (s.withPC ea)

/-- The address a branch at pc goes to: `next + sext_16(rr)` when `cond`, else `next` (R94, R221). -/
def branchAddr (cond : Bool) (rr : Byte) (i : Instr) (s : State) : Addr :=
  if cond then nextAddr i s + sext16 rr else nextAddr i s

/-- The common rule of every branch (R221). -/
def branch (cond : Bool) (rr : Byte) (i : Instr) (s : State) : Result State := .next (s.withPC (branchAddr cond rr i s))

/-- The level of the IRQ pin at this sample, `true` for high: a free value (R236, D11; log 8). -/
def irqHigh (s : State) : Bool := Config.irqPin s.draws

/-- BRA: always (R222). -/
def execBra (rr : Byte) (s : State) : Result State := branch true rr (.bra rr) s

/-- BRN: never (R223). -/
def execBrn (rr : Byte) (s : State) : Result State := branch false rr (.brn rr) s

/-- BHI: C | Z = 0 (R224). -/
def execBhi (rr : Byte) (s : State) : Result State := branch (!s.ccr.c && !s.ccr.z) rr (.bhi rr) s

/-- BLS: C | Z = 1 (R225). -/
def execBls (rr : Byte) (s : State) : Result State := branch (s.ccr.c || s.ccr.z) rr (.bls rr) s

/-- BCC: C = 0 (R226). -/
def execBcc (rr : Byte) (s : State) : Result State := branch (!s.ccr.c) rr (.bcc rr) s

/-- BHS: C = 0, the same instruction as BCC (R226). -/
def execBhs (rr : Byte) (s : State) : Result State := branch (!s.ccr.c) rr (.bhs rr) s

/-- BCS: C = 1 (R227). -/
def execBcs (rr : Byte) (s : State) : Result State := branch s.ccr.c rr (.bcs rr) s

/-- BLO: C = 1, the same instruction as BCS (R227). -/
def execBlo (rr : Byte) (s : State) : Result State := branch s.ccr.c rr (.blo rr) s

/-- BNE: Z = 0 (R228). -/
def execBne (rr : Byte) (s : State) : Result State := branch (!s.ccr.z) rr (.bne rr) s

/-- BEQ: Z = 1 (R229). -/
def execBeq (rr : Byte) (s : State) : Result State := branch s.ccr.z rr (.beq rr) s

/-- BHCC: H = 0 (R230). -/
def execBhcc (rr : Byte) (s : State) : Result State := branch (!s.ccr.h) rr (.bhcc rr) s

/-- BHCS: H = 1 (R231). -/
def execBhcs (rr : Byte) (s : State) : Result State := branch s.ccr.h rr (.bhcs rr) s

/-- BPL: N = 0 (R232). -/
def execBpl (rr : Byte) (s : State) : Result State := branch (!s.ccr.n) rr (.bpl rr) s

/-- BMI: N = 1 (R233). -/
def execBmi (rr : Byte) (s : State) : Result State := branch s.ccr.n rr (.bmi rr) s

/-- BMC: I = 0 (R234). -/
def execBmc (rr : Byte) (s : State) : Result State := branch (!s.ccr.i) rr (.bmc rr) s

/-- BMS: I = 1 (R235). -/
def execBms (rr : Byte) (s : State) : Result State := branch s.ccr.i rr (.bms rr) s

/-- BIL: IRQ pin = 0, a free value (R236). -/
def execBil (rr : Byte) (s : State) : Result State := branch (!irqHigh s) rr (.bil rr) s.drawn

/-- BIH: IRQ pin = 1, a free value (R237). -/
def execBih (rr : Byte) (s : State) : Result State := branch (irqHigh s) rr (.bih rr) s.drawn

/-- BGE: N (+) V = 0 (R238). -/
def execBge (rr : Byte) (s : State) : Result State := branch (s.ccr.n == s.ccr.v) rr (.bge rr) s

/-- BLT: N (+) V = 1 (R239). -/
def execBlt (rr : Byte) (s : State) : Result State := branch (s.ccr.n != s.ccr.v) rr (.blt rr) s

/-- BGT: Z | (N (+) V) = 0 (R240). -/
def execBgt (rr : Byte) (s : State) : Result State := branch (!s.ccr.z && s.ccr.n == s.ccr.v) rr (.bgt rr) s

/-- BLE: Z | (N (+) V) = 1 (R241). -/
def execBle (rr : Byte) (s : State) : Result State := branch (s.ccr.z || s.ccr.n != s.ccr.v) rr (.ble rr) s

end Sys2Proof.Machine
end

