-- ==== Sys2Proof/Machine/LoadStore.lean ====
section
/-! DEFINITION. Loads and stores: LDA, LDHX, LDX, STA, STHX, STX (40_load_store.md R120 to R126). -/
namespace Sys2Proof.Machine

open Sys2Proof

/-- LDA: `A <- (M)` (R121). -/
def execLda (o : Operand8) (s : State) : Result State :=
  withOperand8 o (fun m s1 => (s1.withA m).withCcr (s1.ccr.moved8 m)) (.lda o) s

/-- LDHX: `H:X <- (M:M + $0001)` (R122). -/
def execLdhx (o : Operand16) (s : State) : Result State :=
  withOperand16 o (fun m s1 => (s1.withHX m).withCcr (s1.ccr.moved16 m)) (.ldhx o) s

/-- LDX: `X <- (M)` (R123). -/
def execLdx (o : Operand8) (s : State) : Result State :=
  withOperand8 o (fun m s1 => (s1.withX m).withCcr (s1.ccr.moved8 m)) (.ldx o) s

/-- STA: `M <- (A)`; the flags follow A, not what memory holds afterwards (R124). -/
def execSta (m : Mode) (s : State) : Result State :=
  andThen (storeMode m s.a s) fun s1 => finish (.sta m) (s1.withCcr (s1.ccr.moved8 s.a))

/-- STHX: `(M:M + $0001) <- (H:X)` (R125). -/
def execSthx (m : Mode) (s : State) : Result State :=
  andThen (storeMode16 m s.hx s) fun s1 => finish (.sthx m) (s1.withCcr (s1.ccr.moved16 s.hx))

/-- STX: `M <- (X)` (R126). -/
def execStx (m : Mode) (s : State) : Result State :=
  andThen (storeMode m s.x s) fun s1 => finish (.stx m) (s1.withCcr (s1.ccr.moved8 s.x))

end Sys2Proof.Machine
end

