-- ==== Sys2Proof/Machine/Logical.lean ====
section
/-! DEFINITION. Logical operations: AND, ORA, EOR, COM, BIT (44_logical.md R200 to R204). -/
namespace Sys2Proof.Machine

open Sys2Proof

/-- `A <- r ; CCR.V <- 0 ; NZ8(r)` (R200 to R202). -/
def takeLogical (r : Byte) (s : State) : State := (s.withA r).withCcr (s.ccr.moved8 r)

/-- AND: `A <- (A) & (M)` (R200). -/
def execAnd (o : Operand8) (s : State) : Result State :=
  withOperand8 o (fun m s1 => takeLogical (s1.a &&& m) s1) (.and o) s

/-- ORA: `A <- (A) | (M)` (R201). -/
def execOra (o : Operand8) (s : State) : Result State :=
  withOperand8 o (fun m s1 => takeLogical (s1.a ||| m) s1) (.ora o) s

/-- EOR: `A <- (A) (+) (M)` (R202). -/
def execEor (o : Operand8) (s : State) : Result State :=
  withOperand8 o (fun m s1 => takeLogical (s1.a ^^^ m) s1) (.eor o) s

/-- BIT: the flags of `(A) & (M)`; no operand changes (R204). -/
def execBit (o : Operand8) (s : State) : Result State :=
  withOperand8 o (fun m s1 => s1.withCcr (s1.ccr.moved8 (s1.a &&& m))) (.bit o) s

/-- `r = $FF - t`, every bit inverted; V = 0, N and Z by r, C = 1 (R203; log 14). -/
def comOp : UnaryOp := fun t s => (~~~t, s.withCcr { s.ccr.moved8 (~~~t) with c := true })

/-- COM on a memory byte (R203). -/
def execCom (m : Mode) (s : State) : Result State := rmwMem comOp m (.com m) s

/-- COMA (R203). -/
def execComa (s : State) : Result State := rmwA comOp .coma s

/-- COMX; H is left as it is (R203). -/
def execComx (s : State) : Result State := rmwX comOp .comx s

end Sys2Proof.Machine
end

