-- ==== Sys2Proof/Machine/OtherArithmetic.lean ====
section
/-! DEFINITION. Increment, decrement, clear, negate, compare, test and decimal adjust (43_other_arithmetic.md R180 to R189). -/
namespace Sys2Proof.Machine

open Sys2Proof

/-- `r = t + 1`; V when t is `$7F`, N and Z by r; C is kept (R180; logs 7, 14). -/
def incOp : UnaryOp := fun t s => (t + 1, cautiousC (s.withCcr { s.ccr.nz8 (t + 1) with v := t == 0x7F#8 }))

/-- INC on a memory byte (R180). -/
def execInc (m : Mode) (s : State) : Result State := rmwMem incOp m (.inc m) s

/-- INCA (R180). -/
def execInca (s : State) : Result State := rmwA incOp .inca s

/-- INCX; H is left as it is (R180). -/
def execIncx (s : State) : Result State := rmwX incOp .incx s

/-- `r = t - 1`; V when t is `$80`, N and Z by r; C is kept (R181; logs 7, 14). -/
def decOp : UnaryOp := fun t s => (t - 1, cautiousC (s.withCcr { s.ccr.nz8 (t - 1) with v := t == 0x80#8 }))

/-- DEC on a memory byte (R181). -/
def execDec (m : Mode) (s : State) : Result State := rmwMem decOp m (.dec m) s

/-- DECA (R181). -/
def execDeca (s : State) : Result State := rmwA decOp .deca s

/-- DECX; H is left as it is (R181). -/
def execDecx (s : State) : Result State := rmwX decOp .decx s

/-- `CCR.V <- 0 ; CCR.N <- 0 ; CCR.Z <- 1`; C is kept (R182; logs 7, 14). -/
def clearedFlags (s : State) : State := cautiousC (s.withCcr { s.ccr with v := false, n := false, z := true })

/-- The result `$00`, whatever the operand: the memory forms read it and discard it (R182, D30; log 19). -/
def clrOp : UnaryOp := fun _ s => (0x00#8, clearedFlags s)

/-- CLR on a memory byte (R182). -/
def execClr (m : Mode) (s : State) : Result State := rmwMem clrOp m (.clr m) s

/-- CLRA (R182). -/
def execClra (s : State) : Result State := rmwA clrOp .clra s

/-- CLRX; H is left as it is (R182). -/
def execClrx (s : State) : Result State := rmwX clrOp .clrx s

/-- CLRH: `H <- $00`; X is left as it is (R182). -/
def execClrh (s : State) : Result State := finish .clrh ((clearedFlags s).withH 0x00#8)

/-- `r = $00 - t` and the flags of that subtraction (R183; log 14). -/
def negOp : UnaryOp := fun t s => ((sub8 0x00#8 t false).r, s.withCcr (s.ccr.subtracted (sub8 0x00#8 t false)))

/-- NEG on a memory byte (R183). -/
def execNeg (m : Mode) (s : State) : Result State := rmwMem negOp m (.neg m) s

/-- NEGA (R183). -/
def execNega (s : State) : Result State := rmwA negOp .nega s

/-- NEGX; H is left as it is (R183). -/
def execNegx (s : State) : Result State := rmwX negOp .negx s

/-- CMP: the flags of `A - M`; no operand changes (R184). -/
def execCmp (o : Operand8) (s : State) : Result State :=
  withOperand8 o (fun m s1 => s1.withCcr (s1.ccr.subtracted (sub8 s1.a m false))) (.cmp o) s

/-- CPHX: the flags of `(H:X) - (M:M + $0001)`; no operand changes (R185; logs 14, 17). -/
def execCphx (o : Operand16) (s : State) : Result State :=
  withOperand16 o (fun m s1 => s1.withCcr (s1.ccr.subtracted16 (sub16 s1.hx m))) (.cphx o) s

/-- CPX: the flags of `X - M`; no operand changes (R186; log 14). -/
def execCpx (o : Operand8) (s : State) : Result State :=
  withOperand8 o (fun m s1 => s1.withCcr (s1.ccr.subtracted (sub8 s1.x m false))) (.cpx o) s

/-- The flags of TST: V = 0, N and Z by the value; C is kept (R187; logs 7, 14). -/
def testFlags (t : Byte) (s : State) : State := cautiousC (s.withCcr (s.ccr.moved8 t))

/-- TST on a memory byte, which is read only (R187). -/
def execTst (m : Mode) (s : State) : Result State := withOperand8 (.mem m) testFlags (.tst m) s

/-- TSTA (R187). -/
def execTsta (s : State) : Result State := finish .tsta (testFlags s.a s)

/-- TSTX (R187). -/
def execTstx (s : State) : Result State := finish .tstx (testFlags s.x s)

/-- A row of the table of DAA (R188; log 18): C before, the range of A[7:4], the half carry before, the range of A[3:0], the
correction, C after. -/
structure DaaRow where
  c : Bool
  hiFirst : Nat
  hiLast : Nat
  h : Bool
  loFirst : Nat
  loLast : Nat
  cf : Byte
  cAfter : Bool
deriving DecidableEq, Repr

/-- The nine rows of the table of DAA, in its order (R188; log 18). -/
def daaTable : List DaaRow :=
  [ { c := false, hiFirst := 0x0, hiLast := 0x9, h := false, loFirst := 0x0, loLast := 0x9, cf := 0x00#8, cAfter := false },
    { c := false, hiFirst := 0x0, hiLast := 0x8, h := false, loFirst := 0xA, loLast := 0xF, cf := 0x06#8, cAfter := false },
    { c := false, hiFirst := 0x0, hiLast := 0x9, h := true, loFirst := 0x0, loLast := 0x3, cf := 0x06#8, cAfter := false },
    { c := false, hiFirst := 0xA, hiLast := 0xF, h := false, loFirst := 0x0, loLast := 0x9, cf := 0x60#8, cAfter := true },
    { c := false, hiFirst := 0x9, hiLast := 0xF, h := false, loFirst := 0xA, loLast := 0xF, cf := 0x66#8, cAfter := true },
    { c := false, hiFirst := 0xA, hiLast := 0xF, h := true, loFirst := 0x0, loLast := 0x3, cf := 0x66#8, cAfter := true },
    { c := true, hiFirst := 0x0, hiLast := 0x2, h := false, loFirst := 0x0, loLast := 0x9, cf := 0x60#8, cAfter := true },
    { c := true, hiFirst := 0x0, hiLast := 0x2, h := false, loFirst := 0xA, loLast := 0xF, cf := 0x66#8, cAfter := true },
    { c := true, hiFirst := 0x0, hiLast := 0x3, h := true, loFirst := 0x0, loLast := 0x3, cf := 0x66#8, cAfter := true } ]

/-- The row is the one for this A, half carry and C. -/
def DaaRow.fits (r : DaaRow) (a : Byte) (h c : Bool) : Bool :=
  r.c == c && decide (r.hiFirst ≤ a.toNat / 16) && decide (a.toNat / 16 ≤ r.hiLast) &&
    (r.h == h && decide (r.loFirst ≤ a.toNat % 16) && decide (a.toNat % 16 ≤ r.loLast))

/-- The row of the table that matches, if one does. -/
def daaRow (a : Byte) (h c : Bool) : Option DaaRow := daaTable.find? fun r => r.fits a h c

/-- The corrected A and the new C: from the table, or `daa_fn` where no row matches (R188, D12; log 8). -/
def daaResult (a : Byte) (h c : Bool) (draw : Nat) : Byte × Bool :=
  match daaRow a h c with
  | some r => (a + r.cf, r.cAfter)
  | none => Config.daaFn a h c draw

/-- DAA: the decimal correction; V is a free value, the half carry and I stay (R188, D12; logs 8, 18). -/
def execDaa (s : State) : Result State :=
  let r := daaResult s.a s.ccr.h s.ccr.c s.draws
  finish .daa ((s.withA r.1).withCcr { s.ccr.nz8 r.1 with v := Config.daaV s.draws, c := r.2 }).drawn

end Sys2Proof.Machine
end

