-- ==== Sys2Proof/Machine/ShiftRotate.lean ====
section
/-! DEFINITION. Shifts and rotates: LSL (ASL), LSR, ASR, ROL, ROR (45_shift_rotate.md R210 to R215). -/
namespace Sys2Proof.Machine

open Sys2Proof

/-- The result `r` and the bit that leaves into C, with N, Z by r and V = N xor C (R210; logs 7, 15). -/
def shiftTo (r : Byte) (out : Bool) (s : State) : Byte × State := (r, cautiousV (s.withCcr (s.ccr.shifted r out)))

/-- A zero enters bit 0, bit 7 leaves into C (R211). -/
def lslOp : UnaryOp := fun t s => shiftTo (t <<< 1) (t.getLsbD 7) s

/-- LSL on a memory byte (R211). -/
def execLsl (m : Mode) (s : State) : Result State := rmwMem lslOp m (.lsl m) s

/-- LSLA (R211). -/
def execLsla (s : State) : Result State := rmwA lslOp .lsla s

/-- LSLX; H is left as it is (R211). -/
def execLslx (s : State) : Result State := rmwX lslOp .lslx s

/-- ASL on a memory byte, the same instruction as LSL (R211, R105). -/
def execAsl (m : Mode) (s : State) : Result State := rmwMem lslOp m (.asl m) s

/-- ASLA (R211). -/
def execAsla (s : State) : Result State := rmwA lslOp .asla s

/-- ASLX; H is left as it is (R211). -/
def execAslx (s : State) : Result State := rmwX lslOp .aslx s

/-- A zero enters bit 7, bit 0 leaves into C (R212). -/
def lsrOp : UnaryOp := fun t s => shiftTo (t >>> 1) (t.getLsbD 0) s

/-- LSR on a memory byte (R212). -/
def execLsr (m : Mode) (s : State) : Result State := rmwMem lsrOp m (.lsr m) s

/-- LSRA (R212). -/
def execLsra (s : State) : Result State := rmwA lsrOp .lsra s

/-- LSRX; H is left as it is (R212). -/
def execLsrx (s : State) : Result State := rmwX lsrOp .lsrx s

/-- Bit 7 stays, bit 0 leaves into C (R213). -/
def asrOp : UnaryOp := fun t s => shiftTo (t.sshiftRight 1) (t.getLsbD 0) s

/-- ASR on a memory byte (R213). -/
def execAsr (m : Mode) (s : State) : Result State := rmwMem asrOp m (.asr m) s

/-- ASRA (R213). -/
def execAsra (s : State) : Result State := rmwA asrOp .asra s

/-- ASRX; H is left as it is (R213). -/
def execAsrx (s : State) : Result State := rmwX asrOp .asrx s

/-- The old C enters bit 0, bit 7 leaves into C (R214). -/
def rolOp : UnaryOp := fun t s => shiftTo (t.extractLsb' 0 7 ++ BitVec.ofBool s.ccr.c) (t.getLsbD 7) s

/-- ROL on a memory byte (R214). -/
def execRol (m : Mode) (s : State) : Result State := rmwMem rolOp m (.rol m) s

/-- ROLA (R214). -/
def execRola (s : State) : Result State := rmwA rolOp .rola s

/-- ROLX; H is left as it is (R214). -/
def execRolx (s : State) : Result State := rmwX rolOp .rolx s

/-- The old C enters bit 7, bit 0 leaves into C (R215). -/
def rorOp : UnaryOp := fun t s => shiftTo (BitVec.ofBool s.ccr.c ++ t.extractLsb' 1 7) (t.getLsbD 0) s

/-- ROR on a memory byte (R215). -/
def execRor (m : Mode) (s : State) : Result State := rmwMem rorOp m (.ror m) s

/-- RORA (R215). -/
def execRora (s : State) : Result State := rmwA rorOp .rora s

/-- RORX; H is left as it is (R215). -/
def execRorx (s : State) : Result State := rmwX rorOp .rorx s

end Sys2Proof.Machine
end

