-- ==== Sys2Proof/Machine/Untabled.lean ====
section
/-! DEFINITION. TXS, which the examples use and no table of the source defines (47_referenced_untabled.md R260). -/
namespace Sys2Proof.Machine

open Sys2Proof

/-- TXS: `SP <- (H:X) - $0001`; no flag changes. It runs where `accept_txs` is set, and is an unlisted opcode where it is not
(R260, D8; logs 7, 32). -/
def execTxs (s : State) : Result State :=
  if s.params.acceptTxs then finish .txs (s.withSP (s.hx - 1)) else .refused (.unspecifiedOpcode [0x94#8])

end Sys2Proof.Machine
end

