-- ==== Sys2Proof/Machine/Fetch.lean ====
section
/-! DEFINITION. Instruction fetch (30_encoding.md R80, R81; 60_exceptions.md R271), and placing an instruction's bytes for it. -/
namespace Sys2Proof.Machine

open Sys2Proof

/-- Fetches `k` bytes at consecutive addresses modulo 2^16, lowest first (R80, R81). -/
def fetchBytes : Nat → Addr → State → Result (List Byte × State)
  | 0, _, s => .next ([], s)
  | k + 1, a, s =>
    andThen (memRead a s) fun (b, s1) => andThen (fetchBytes k (a + 1) s1) fun (bs, s2) => .next (b :: bs, s2)

/-- Fetches the bytes of the instruction at pc, and no byte more: the opcode, or the pre-byte and the page-2 opcode, then the operand
bytes of its row (R81). An opcode without a row has no operand bytes. -/
def fetch (s : State) : Result (List Byte × State) :=
  andThen (memRead s.pc s) fun (b0, s1) =>
    if b0 = preByte then
      andThen (memRead (s.pc + 1) s1) fun (b1, s2) =>
        andThen (fetchBytes (operandCount2 b1) (s.pc + 2) s2) fun (bs, s3) => .next (b0 :: b1 :: bs, s3)
    else andThen (fetchBytes (operandCount1 b0) (s.pc + 1) s1) fun (bs, s2) => .next (b0 :: bs, s2)

/-- Fetches and decodes the instruction at pc; an opcode with no row is refused with its bytes (R103, R271). -/
def fetchInstr (s : State) : Result (Instr × State) :=
  andThen (fetch s) fun (bs, s1) =>
    match decode bs with
    | .ok (i, _) => .next (i, s1)
    | .error _ => .refused (.unspecifiedOpcode bs)

/-- The memory with bytes placed at consecutive addresses modulo 2^16. -/
def placeBytes : Memory → Addr → List Byte → Memory
  | m, _, [] => m
  | m, a, b :: bs => placeBytes (m.write a.toNat b) (a + 1) bs

/-- The region map with the address made RAM, if the map does not make it RAM or NVM already. -/
def makeFetchable (rs : List Region) (a : Addr) : List Region :=
  match regionIn rs a with
  | .ram | .nvm => rs
  | .io | .none => { range := { first := a, last := a }, kind := .ram } :: rs

/-- The state with bytes placed at pc and all that a plain fetch of them needs: the locations are RAM or NVM, and pc is not the halt
address. Nothing else changes. -/
def placeAtPc (s : State) (bs : List Byte) : State :=
  { s with
    mem := placeBytes s.mem s.pc bs
    params :=
      { s.params with
        regions := (List.range bs.length).foldl (fun rs k => makeFetchable rs (s.pc + BitVec.ofNat 16 k)) s.params.regions
        haltAddr := if s.params.haltAddr = some s.pc then none else s.params.haltAddr } }

end Sys2Proof.Machine
end

