-- ==== Sys2Proof/Machine/Step.lean ====
section
/-! DEFINITION. One step of the machine: the end of a run, the fetch, the meaning. -/
namespace Sys2Proof.Machine

open Sys2Proof

/-- One step: the run ends when pc is the halt address before a fetch (92_eei_decisions.md D20); else the instruction at pc is fetched,
decoded and run. -/
def step (s : State) : Host.Outcome State Fault Refusal :=
  if s.params.haltAddr = some s.pc then .fault (.halted s.pc)
  else andThen (fetchInstr s) fun (i, s1) => exec i s1

/-- The state with an opcode-table word stored where `step` fetches its next instruction. -/
def State.withFetchWord (s : State) (nbits w : Nat) : State := placeAtPc s (tableBytes nbits w)

end Sys2Proof.Machine
end

