-- ==== Sys2Proof/Machine/Timing.lean ====
section
/-! DEFINITION. The cycle counts of the instruction tables (70_reset_and_hazards.md R296). They are informative: no state counts cycles
and no meaning reads them (D27; log 25). -/
namespace Sys2Proof

/-- LDA, LDX, ADC, ADD, SUB, SBC, CMP, CPX, AND, ORA, EOR, BIT in memory modes (R296). -/
def Mode.cyclesRead : Mode → Nat
  | .dir _ | .ix1 _ | .ix => 3
  | .ext _ | .ix2 _ | .sp1 _ => 4
  | .sp2 _ => 5

/-- STA and STX (R296). -/
def Mode.cyclesStore : Mode → Nat
  | .ix => 2
  | .dir _ | .ix1 _ => 3
  | .ext _ | .ix2 _ | .sp1 _ => 4
  | .sp2 _ => 5

/-- The read-modify-write group (R189, R296); none for a mode the group has not. -/
def Mode.cyclesRmw : Mode → Option Nat
  | .ix => some 4
  | .dir _ | .ix1 _ => some 5
  | .sp1 _ => some 6
  | .ext _ | .ix2 _ | .sp2 _ => none

/-- TST, one cycle less than the read-modify-write group (R189, R296). -/
def Mode.cyclesTst (m : Mode) : Option Nat := m.cyclesRmw.map (· - 1)

/-- The eight-mode instructions (R296). -/
def Operand8.cycles : Operand8 → Nat
  | .imm _ => 2
  | .mem m => m.cyclesRead

/-- LDHX (R122, R296). -/
def Operand16.cyclesLdhx : Operand16 → Option Nat
  | .imm _ => some 3
  | .mem (.dir _) => some 4
  | .mem (.ext _) | .mem .ix | .mem (.ix1 _) | .mem (.sp1 _) => some 5
  | .mem (.ix2 _) => some 6
  | .mem (.sp2 _) => none

/-- STHX (R125, R296). -/
def Mode.cyclesSthx : Mode → Option Nat
  | .dir _ => some 4
  | .ext _ | .sp1 _ => some 5
  | .ix2 _ | .ix1 _ | .ix | .sp2 _ => none

/-- CPHX (R185, R296). -/
def Operand16.cyclesCphx : Operand16 → Option Nat
  | .imm _ => some 3
  | .mem (.dir _) => some 5
  | .mem (.ext _) | .mem (.sp1 _) => some 6
  | .mem (.ix2 _) | .mem (.ix1 _) | .mem .ix | .mem (.sp2 _) => none

/-- JMP (R220, R296). -/
def Mode.cyclesJmp : Mode → Option Nat
  | .dir _ | .ix1 _ | .ix => some 3
  | .ext _ | .ix2 _ => some 4
  | .sp2 _ | .sp1 _ => none

/-- MOV (R142, R296). -/
def MovForm.cycles : MovForm → Nat
  | .dirDir _ _ | .dirIxp _ | .ixpDir _ => 5
  | .immDir _ _ => 4

/-- The bus cycles of an instruction (R296): none for a form the tables have not, and for TXS, whose count is not in the source (R109). -/
def Instr.cycles : Instr → Option Nat
  | .lda o | .ldx o | .adc o | .add o | .sub o | .sbc o | .cmp o | .cpx o | .and o | .ora o | .eor o | .bit o => some (o.cycles)
  | .ldhx o => o.cyclesLdhx
  | .cphx o => o.cyclesCphx
  | .sta m | .stx m => some m.cyclesStore
  | .sthx m => m.cyclesSthx
  | .mov f => some f.cycles
  | .inc m | .dec m | .clr m | .neg m | .com m | .lsl m | .asl m | .lsr m | .asr m | .rol m | .ror m => m.cyclesRmw
  | .tst m => m.cyclesTst
  | .jmp m => m.cyclesJmp
  | .bset _ _ | .bclr _ _ | .mul => some 5
  | .div => some 6
  | .ais _ | .aix _ => some 2
  | .bra _ | .brn _ | .bhi _ | .bls _ | .bcc _ | .bhs _ | .bcs _ | .blo _ | .bne _ | .beq _ | .bhcc _ | .bhcs _ => some 3
  | .bpl _ | .bmi _ | .bmc _ | .bms _ | .bil _ | .bih _ | .bge _ | .blt _ | .bgt _ | .ble _ => some 3
  | .tax | .txa | .tap | .tpa | .nsa | .daa => some 1
  | .inca | .incx | .deca | .decx | .clra | .clrx | .clrh | .nega | .negx | .tsta | .tstx | .coma | .comx => some 1
  | .lsla | .lslx | .asla | .aslx | .lsra | .lsrx | .asra | .asrx | .rola | .rolx | .rora | .rorx => some 1
  | .txs => none

end Sys2Proof
end

