-- ==== Sys2Proof/Safety.lean ====
section
/-! DEFINITION. The terms that claims use: when an operand can be read or a location stored to (60_exceptions.md R271), and what the
reading gives. A run is safe while no step is refused. -/
namespace Sys2Proof

/-! ### Tables of the spec -/

/-- The column `written by` of A in the access table (10_state.md R25). -/
def Instr.writesA : Instr → Bool
  | .lda _ | .txa | .tpa | .nsa | .adc _ | .add _ | .sub _ | .sbc _ | .mul | .div | .and _ | .ora _ | .eor _ | .daa => true
  | .inca | .deca | .clra | .nega | .coma | .lsla | .asla | .lsra | .asra | .rola | .rora => true
  | _ => false

/-- The column `written by` of X (R25). -/
def Instr.writesX : Instr → Bool
  | .ldx _ | .ldhx _ | .tax | .mul | .aix _ | .mov (.dirIxp _) | .mov (.ixpDir _) => true
  | .incx | .decx | .clrx | .negx | .comx | .lslx | .aslx | .lsrx | .asrx | .rolx | .rorx => true
  | _ => false

/-- The column `written by` of H (R25). -/
def Instr.writesH : Instr → Bool
  | .ldhx _ | .div | .aix _ | .mov (.dirIxp _) | .mov (.ixpDir _) | .clrh => true
  | _ => false

/-- The column `written by` of SP (R25): AIS, and outside the tables TXS. -/
def Instr.writesSP : Instr → Bool
  | .ais _ | .txs => true
  | _ => false

/-- The offset byte of a branch (46_jump_branch.md R221). -/
def Instr.branchOffset : Instr → Option Byte
  | .bra rr | .brn rr | .bhi rr | .bls rr | .bcc rr | .bhs rr | .bcs rr | .blo rr | .bne rr | .beq rr | .bhcc rr | .bhcs rr => some rr
  | .bpl rr | .bmi rr | .bmc rr | .bms rr | .bil rr | .bih rr | .bge rr | .blt rr | .bgt rr | .ble rr => some rr
  | _ => none

/-- The page-1 opcodes with no row, as 30_encoding.md R103 lists them. -/
def unlistedPage1 : List Byte :=
  (List.range 16).map (BitVec.ofNat 8) ++
    [0x31#8, 0x3B#8, 0x41#8, 0x4B#8, 0x51#8, 0x5B#8, 0x61#8, 0x6B#8, 0x71#8, 0x7B#8, 0x80#8, 0x81#8, 0x82#8, 0x83#8] ++
    [0x86#8, 0x87#8, 0x88#8, 0x89#8, 0x8A#8, 0x8B#8, 0x8D#8, 0x8E#8, 0x8F#8, 0x95#8] ++
    [0x98#8, 0x99#8, 0x9A#8, 0x9B#8, 0x9C#8, 0x9D#8, 0xAC#8, 0xAD#8, 0xBD#8, 0xCD#8, 0xDD#8, 0xED#8, 0xFD#8]

/-- The page-2 second bytes of R102, 45 of them; R103 refuses every other. -/
def listedPage2 : List Byte :=
  [0x60#8, 0x63#8, 0x64#8, 0x66#8, 0x67#8, 0x68#8, 0x69#8, 0x6A#8, 0x6C#8, 0x6D#8, 0x6F#8, 0xAE#8, 0xBE#8, 0xCE#8] ++
    [0xD0#8, 0xE0#8, 0xD1#8, 0xE1#8, 0xD2#8, 0xE2#8, 0xD3#8, 0xE3#8, 0xD4#8, 0xE4#8, 0xD5#8, 0xE5#8, 0xD6#8, 0xE6#8] ++
    [0xD7#8, 0xE7#8, 0xD8#8, 0xE8#8, 0xD9#8, 0xE9#8, 0xDA#8, 0xEA#8, 0xDB#8, 0xEB#8, 0xDE#8, 0xEE#8, 0xDF#8, 0xEF#8] ++
    [0xF3#8, 0xFE#8, 0xFF#8]

/-- A cell of the summary of CCR effects (10_state.md R39). -/
inductive CcrEffect where
  /-- `-`, unchanged. -/
  | keep
  /-- `0`, cleared. -/
  | clear
  /-- `1`, set. -/
  | set
  /-- `*` by the result, or `U`. -/
  | result
deriving DecidableEq, Repr

/-- A flag before and after, as a cell of the summary says. -/
def CcrEffect.allows (e : CcrEffect) (before after : Bool) : Prop :=
  match e with
  | .keep => after = before
  | .clear => after = false
  | .set => after = true
  | .result => True

/-- A row of the summary, in the order V, H, I, N, Z, C. -/
structure CcrRow where
  v : CcrEffect
  h : CcrEffect
  i : CcrEffect
  n : CcrEffect
  z : CcrEffect
  c : CcrEffect
deriving DecidableEq, Repr

/-- The summary of CCR effects, a row per instruction (R39); TXS changes no flag (R260). -/
def Instr.ccrRow : Instr → CcrRow
  | .lda _ | .ldx _ | .ldhx _ | .sta _ | .stx _ | .sthx _ | .mov _ => ⟨.clear, .keep, .keep, .result, .result, .keep⟩
  | .tap => ⟨.result, .result, .result, .result, .result, .result⟩
  | .adc _ | .add _ => ⟨.result, .result, .keep, .result, .result, .result⟩
  | .sub _ | .sbc _ | .cmp _ | .cpx _ | .cphx _ | .neg _ | .nega | .negx => ⟨.result, .keep, .keep, .result, .result, .result⟩
  | .mul => ⟨.keep, .clear, .keep, .keep, .keep, .clear⟩
  | .div => ⟨.keep, .keep, .keep, .keep, .result, .result⟩
  | .inc _ | .inca | .incx | .dec _ | .deca | .decx => ⟨.result, .keep, .keep, .result, .result, .keep⟩
  | .clr _ | .clra | .clrx | .clrh => ⟨.clear, .keep, .keep, .clear, .set, .keep⟩
  | .tst _ | .tsta | .tstx | .and _ | .ora _ | .eor _ | .bit _ => ⟨.clear, .keep, .keep, .result, .result, .keep⟩
  | .daa => ⟨.result, .keep, .keep, .result, .result, .result⟩
  | .com _ | .coma | .comx => ⟨.clear, .keep, .keep, .result, .result, .set⟩
  | .lsr _ | .lsra | .lsrx => ⟨.result, .keep, .keep, .clear, .result, .result⟩
  | .lsl _ | .lsla | .lslx | .asl _ | .asla | .aslx | .asr _ | .asra | .asrx | .rol _ | .rola | .rolx | .ror _ | .rora | .rorx =>
    ⟨.result, .keep, .keep, .result, .result, .result⟩
  | .bset _ _ | .bclr _ _ | .tax | .txa | .tpa | .nsa | .ais _ | .aix _ | .jmp _ | .txs => ⟨.keep, .keep, .keep, .keep, .keep, .keep⟩
  | .bra _ | .brn _ | .bhi _ | .bls _ | .bcc _ | .bhs _ | .bcs _ | .blo _ | .bne _ | .beq _ | .bhcc _ | .bhcs _ =>
    ⟨.keep, .keep, .keep, .keep, .keep, .keep⟩
  | .bpl _ | .bmi _ | .bmc _ | .bms _ | .bil _ | .bih _ | .bge _ | .blt _ | .bgt _ | .ble _ =>
    ⟨.keep, .keep, .keep, .keep, .keep, .keep⟩

end Sys2Proof

namespace Sys2Proof.Machine

open Sys2Proof

/-- The mode's offset is taken and something stands at its address. -/
abbrev ModeReady (m : Mode) (s : State) : Prop := modeRefusal m s = none ∧ s.region (modeAddr m s) ≠ .none

/-- The mode's offset is taken and a byte can be stored at its address. -/
abbrev StoreReady (m : Mode) (s : State) : Prop := modeRefusal m s = none ∧ storeRefusal (modeAddr m s) s = none

/-- The mode's offset is taken and a byte can be stored at its address and at the next. -/
abbrev Store16Ready (m : Mode) (s : State) : Prop :=
  modeRefusal m s = none ∧ storeRefusal (modeAddr m s) s = none ∧ storeRefusal (modeAddr m s + 1) s = none

/-- An 8-bit operand that can be read. -/
abbrev Operand8Ready (o : Operand8) (s : State) : Prop :=
  match o with
  | .imm _ => True
  | .mem m => ModeReady m s

/-- A 16-bit operand that can be read. -/
abbrev Operand16Ready (o : Operand16) (s : State) : Prop :=
  match o with
  | .imm _ => True
  | .mem m => ModeReady m s ∧ s.region (modeAddr m s + 1) ≠ .none

/-- The value of an 8-bit operand. -/
def operand8Value (o : Operand8) (s : State) : Byte :=
  match o with
  | .imm ii => ii
  | .mem m => loadValue (modeAddr m s) s

/-- The state after an 8-bit operand is read: as before, but that the platform has seen the read of an IO location. -/
def operand8After (o : Operand8) (s : State) : State :=
  match o with
  | .imm _ => s
  | .mem m => afterLoad (modeAddr m s) s

/-- The value of a 16-bit operand: the high byte from the first address (20_memory.md R53, R55). -/
def operand16Value (o : Operand16) (s : State) : Addr :=
  match o with
  | .imm jjkk => jjkk
  | .mem m => joinBytes (loadValue (modeAddr m s) s) (loadValue (modeAddr m s + 1) (afterLoad (modeAddr m s) s))

/-- The state after a 16-bit operand is read. -/
def operand16After (o : Operand16) (s : State) : State :=
  match o with
  | .imm _ => s
  | .mem m => afterLoad (modeAddr m s + 1) (afterLoad (modeAddr m s) s)

/-- C after INC, DEC, TST, CLR: unchanged, or a free value with `cautious_flags` (00_scope.md R6, D17). -/
def keptCarry (s : State) : Bool := if s.params.cautiousFlags then Config.cautiousCarry s.draws else s.ccr.c

/-- V after a shift or rotate that computes `v`: `v`, or a free value with `cautious_flags` (00_scope.md R6, D19). -/
def shiftOverflow (v : Bool) (s : State) : Bool := if s.params.cautiousFlags then Config.cautiousOverflow s.draws else v

/-- The draw counter after an instruction that draws one flag with `cautious_flags`. -/
def flagDraws (s : State) : Nat := if s.params.cautiousFlags then s.draws + 1 else s.draws

/-- The location is one that the platform does not answer for: RAM or NVM. -/
abbrev PlainAt (s : State) (a : Addr) : Prop := s.region a = .ram ∨ s.region a = .nvm

/-- The bytes stand at consecutive addresses, in RAM or NVM. -/
def BytesAt (s : State) : Addr → List Byte → Prop
  | _, [] => True
  | a, b :: bs => PlainAt s a ∧ s.byteAt a = b ∧ BytesAt s (a + 1) bs

/-- The value of two decimal digits held one in each nibble (43_other_arithmetic.md R188). -/
def bcdValue (b : Byte) : Nat := 10 * (b.toNat / 16) + b.toNat % 16

/-- Both nibbles are decimal digits: a legal two-digit BCD number (R188). -/
abbrev IsBcd (b : Byte) : Prop := b.toNat / 16 ≤ 9 ∧ b.toNat % 16 ≤ 9

/-- One data access (20_memory.md R52): a read or a write, and its address. -/
structure Access where
  isWrite : Bool
  addr : Addr
deriving DecidableEq, Repr

/-- `MemRead(addr, 1)`. -/
abbrev Access.read (addr : Addr) : Access := ⟨false, addr⟩

/-- `MemWrite(addr, 1, _)`. -/
abbrev Access.write (addr : Addr) : Access := ⟨true, addr⟩

/-- The access that an entry of the platform's history records. -/
def accessOf : IoEvent → Access
  | .read addr _ => .read addr
  | .write addr _ => .write addr

/-- The data accesses of an instruction, in order (R57; CLR reads by D30, log 19). -/
def accesses (i : Instr) (s : State) : List Access :=
  match i with
  | .lda (.mem m) | .ldx (.mem m) | .adc (.mem m) | .add (.mem m) | .sub (.mem m) | .sbc (.mem m) => [.read (modeAddr m s)]
  | .cmp (.mem m) | .cpx (.mem m) | .and (.mem m) | .ora (.mem m) | .eor (.mem m) | .bit (.mem m) => [.read (modeAddr m s)]
  | .tst m => [.read (modeAddr m s)]
  | .ldhx (.mem m) | .cphx (.mem m) => [.read (modeAddr m s), .read (modeAddr m s + 1)]
  | .sta m | .stx m => [.write (modeAddr m s)]
  | .sthx m => [.write (modeAddr m s), .write (modeAddr m s + 1)]
  | .bset _ dd | .bclr _ dd => [.read (zext16 dd), .write (zext16 dd)]
  | .inc m | .dec m | .neg m | .com m | .lsl m | .asl m | .lsr m | .asr m | .rol m | .ror m | .clr m =>
    [.read (modeAddr m s), .write (modeAddr m s)]
  | .mov (.dirDir src dst) => [.read (zext16 src), .write (zext16 dst)]
  | .mov (.dirIxp dd) => [.read (zext16 dd), .write s.hx]
  | .mov (.immDir _ dd) => [.write (zext16 dd)]
  | .mov (.ixpDir dd) => [.read s.hx, .write (zext16 dd)]
  | _ => []

/-- The memory mode an instruction has, if it has one; the direct addresses of BSET, BCLR and MOV carry no offset. -/
def modeOf : Instr → Option Mode
  | .lda (.mem m) | .ldx (.mem m) | .adc (.mem m) | .add (.mem m) | .sub (.mem m) | .sbc (.mem m) | .cmp (.mem m) | .cpx (.mem m) => some m
  | .and (.mem m) | .ora (.mem m) | .eor (.mem m) | .bit (.mem m) | .ldhx (.mem m) | .cphx (.mem m) => some m
  | .sta m | .stx m | .sthx m | .tst m | .jmp m => some m
  | .inc m | .dec m | .clr m | .neg m | .com m | .lsl m | .asl m | .lsr m | .asr m | .rol m | .ror m => some m
  | _ => none

/-- The refusal of an 8-bit offset of `$80` to `$FF` with `refuse_high_offsets` (00_scope.md R6, D2). -/
def offsetRefusal (i : Instr) (s : State) : Option Refusal :=
  match modeOf i with
  | some (.ix1 ff) | some (.sp1 ff) => if s.params.refuseHighOffsets = true ∧ 128 ≤ ff.toNat then some (.highOffset ff) else none
  | _ => none

/-- The refusal of one access (20_memory.md R58, R66, 60_exceptions.md R271; D29). -/
def accessRefusal (s : State) (x : Access) : Option Refusal :=
  if s.region x.addr = .none then some (.unmappedAccess x.addr)
  else if x.isWrite = true ∧ s.inProgramText x.addr = true then some (.writeToProgramText x.addr)
  else if x.isWrite = true ∧ s.region x.addr = .nvm ∧ s.params.refuseNvmWrite = true then some (.nvmWrite x.addr)
  else none

/-- The first refusal that an instruction meets: its offset's, then its accesses' in order (R271). -/
def firstRefusal (i : Instr) (s : State) : Option Refusal :=
  match offsetRefusal i s with
  | some r => some r
  | none => (accesses i s).findSome? (accessRefusal s)

/-- What the platform sees of a fetch of bytes from an address on: a read of each that lies at an IO location (R60; log 9). -/
def fetchReads (s : State) : Addr → List Byte → List IoEvent
  | _, [] => []
  | a, b :: bs => if s.region a = .io then .read a b :: fetchReads s (a + 1) bs else fetchReads s (a + 1) bs

/-- The 24-bit value at a direct-page address, most significant byte first (45_shift_rotate.md R216). -/
def value24 (dd : Byte) (s : State) : Nat :=
  65536 * (s.byteAt (zext16 dd)).toNat + 256 * (s.byteAt (zext16 dd + 1)).toNat + (s.byteAt (zext16 dd + 2)).toNat

/-- A RAM location outside the program text: one that a store changes. -/
abbrev Writable (s : State) (a : Addr) : Prop := s.region a = .ram ∧ s.inProgramText a = false

/-! ### The shapes of claims about instructions -/

/-- The instruction with an 8-bit operand completes whenever the operand can be read: the effect of the operand's value on the state
after the reading, and `pc <- next`. -/
def OperandRuns (mk : Operand8 → Instr) (effect : Byte → State → State) : Prop :=
  ∀ o s, Operand8Ready o s →
    exec (mk o) s =
      .next { effect (operand8Value o s) (operand8After o s) with pc := s.pc + BitVec.ofNat 16 (mk o).size }

/-- The same for an instruction with a 16-bit operand. -/
def Operand16Runs (mk : Operand16 → Instr) (effect : Addr → State → State) : Prop :=
  ∀ o s, Operand16Ready o s →
    exec (mk o) s =
      .next { effect (operand16Value o s) (operand16After o s) with pc := s.pc + BitVec.ofNat 16 (mk o).size }

/-- The six operands of a read-modify-write instruction (43_other_arithmetic.md R189): the result goes back to where the operand came
from, the flags and the draw counter are as given, `pc <- next`, and nothing else changes. The memory form completes whenever the location
can be stored to; it reads, then writes. -/
def UnaryRuns (mk : Mode → Instr) (onA onX : Instr) (result : Byte → State → Byte) (flags : Byte → State → Ccr) (draws : State → Nat) :
    Prop :=
  (∀ m s, StoreReady m s →
    exec (mk m) s =
      .next
        { afterStore (modeAddr m s) (result (loadValue (modeAddr m s) s) (afterLoad (modeAddr m s) s)) (afterLoad (modeAddr m s) s) with
          ccr := flags (loadValue (modeAddr m s) s) (afterLoad (modeAddr m s) s)
          draws := draws (afterLoad (modeAddr m s) s)
          pc := s.pc + BitVec.ofNat 16 (mk m).size }) ∧
  (∀ s, exec onA s = .next { s with a := result s.a s, ccr := flags s.a s, draws := draws s, pc := s.pc + 1 }) ∧
  (∀ s, exec onX s = .next { s with x := result s.x s, ccr := flags s.x s, draws := draws s, pc := s.pc + 1 })

/-- A signed value does not fit in 8 bits (10_state.md R33). -/
def overflows8 (v : Int) : Bool := decide (v < -128) || decide (127 < v)

/-- A signed value does not fit in 16 bits. -/
def overflows16 (v : Int) : Bool := decide (v < -32768) || decide (32767 < v)

/-- N and Z of an 8-bit result (R36, R37). -/
def signAndZero (r : Byte) (f : Ccr) : Ccr := { f with n := r.getLsbD 7, z := decide (r = 0) }

/-- V = 0, N and Z of the byte moved or computed (R39). -/
def movedFlags (r : Byte) (f : Ccr) : Ccr := { signAndZero r f with v := false }

/-- A + m + c as integers: A the sum modulo 256, V a signed sum outside -128 to 127, half carry out of bit 3, C a sum above 255
(42_add_sub_mul_div.md R160, R161, R168; log 13). -/
def sumLeaves (m : Byte) (c : Bool) (s : State) : State :=
  let r := BitVec.ofNat 8 (s.a.toNat + m.toNat + c.toNat)
  { s with
    a := r
    ccr :=
      { signAndZero r s.ccr with
        v := overflows8 (s.a.toInt + m.toInt + c.toNat)
        h := decide (16 ≤ s.a.toNat % 16 + m.toNat % 16 + c.toNat)
        c := decide (256 ≤ s.a.toNat + m.toNat + c.toNat) } }

/-- The difference `a - m - b` modulo 256. -/
def difference8 (a m : Byte) (b : Bool) : Byte := BitVec.ofInt 8 ((a.toNat : Int) - m.toNat - b.toNat)

/-- The flags of `a - m - b` as integers: V a signed difference outside -128 to 127, C a borrow (R164, R165, R168, 43_other_arithmetic.md
R184; log 13). -/
def differenceFlags8 (a m : Byte) (b : Bool) (f : Ccr) : Ccr :=
  { signAndZero (difference8 a m b) f with
    v := overflows8 (a.toInt - m.toInt - b.toNat)
    c := decide (a.toNat < m.toNat + b.toNat) }

/-- The flags of the 16-bit `a - m` (R185; logs 13, 17). -/
def differenceFlags16 (a m : Addr) (f : Ccr) : Ccr :=
  { f with
    v := overflows16 (a.toInt - m.toInt)
    n := (BitVec.ofInt 16 ((a.toNat : Int) - m.toNat)).getLsbD 15
    z := decide (a = m)
    c := decide (a.toNat < m.toNat) }

/-- Where a branch at pc goes (46_jump_branch.md R221), as integer arithmetic modulo 2^16: two bytes on, plus the signed offset when
taken. -/
def branchGoal (taken : Bool) (rr : Byte) (s : State) : Addr :=
  BitVec.ofInt 16 ((s.pc.toNat : Int) + 2 + if taken then rr.toInt else 0)

/-- A branch (R221): the opcode and the offset byte, three cycles, taken on the condition; nothing but pc changes. -/
def BranchRuns (mk : Byte → Instr) (opcode : Byte) (cond : State → Bool) : Prop :=
  ∀ rr s, encode (mk rr) = [opcode, rr] ∧ decode [opcode, rr] = .ok ((mk rr).primary, []) ∧ (mk rr).cycles = some 3 ∧
    exec (mk rr) s = .next { s with pc := branchGoal (cond s) rr s }

/-- In this state the branch is taken exactly when `p` holds. -/
def TakenIff (mk : Byte → Instr) (s : State) (p : Prop) : Prop :=
  ∀ rr, (p → exec (mk rr) s = .next { s with pc := branchGoal true rr s }) ∧
    (¬p → exec (mk rr) s = .next { s with pc := branchGoal false rr s })

/-- The unsigned and the signed conditional branches decide the order of the two values compared (46_jump_branch.md R224 to R229,
R238 to R241): `below` unsigned, `lower` signed. -/
def DecidesOrder (s : State) (below equal lower : Prop) : Prop :=
  TakenIff .blo s below ∧ TakenIff .bcs s below ∧ TakenIff .bhs s (¬below) ∧ TakenIff .bcc s (¬below) ∧
  TakenIff .bls s (below ∨ equal) ∧ TakenIff .bhi s (¬(below ∨ equal)) ∧ TakenIff .beq s equal ∧ TakenIff .bne s (¬equal) ∧
  TakenIff .blt s lower ∧ TakenIff .bge s (¬lower) ∧ TakenIff .ble s (lower ∨ equal) ∧ TakenIff .bgt s (¬(lower ∨ equal))

/-- The input of DAA lies in a row of its table (43_other_arithmetic.md R188): C, the range of A[7:4], the half carry, the range of
A[3:0]. -/
abbrev InDaaRow (s : State) (c : Bool) (hiFirst hiLast : Nat) (h : Bool) (loFirst loLast : Nat) : Prop :=
  s.ccr.c = c ∧ (hiFirst ≤ s.a.toNat / 16 ∧ s.a.toNat / 16 ≤ hiLast) ∧ s.ccr.h = h ∧ loFirst ≤ s.a.toNat % 16 ∧ s.a.toNat % 16 ≤ loLast

/-- What DAA leaves: the corrected A and the new C, N and Z by A, V a free value, one draw taken; nothing else changes. -/
def DaaLeaves (s : State) (r : Byte) (c : Bool) : Prop :=
  ∃ v, exec .daa s =
    .next { s with
      a := r
      ccr := { s.ccr with v := v, n := r.getLsbD 7, z := decide (r = 0), c := c }
      pc := s.pc + 1
      draws := s.draws + 1 }

/-- A step is safe when it answers a next state. -/
abbrev StepsSafely (s : State) : Prop := ∃ t, step s = .next t

end Sys2Proof.Machine
end

