-- ==== Sys2Proof/Certificates/Slice0/Obligations.lean ====
section
/-! DEFINITION. The statements for the provers. A docstring names the rule of spec/ that a statement says, and the log entry of every
clause that is the model's choice or that the spec marks as its own decision or as general knowledge. -/

open Sys2Proof Sys2Proof.Machine

/-! ### Encoding -/

/-- Words of the source's listings and of the worked examples decode to the instructions they stand for (30_encoding.md R82, R94, R95, R98,
R101, R102; 43_other_arithmetic.md R186). -/
def Obligations.KnownWordsDecode : Prop :=
  decode [0xA6#8, 0x55#8] = .ok (.lda (.imm 0x55#8), []) ∧
  decode [0x45#8, 0xC0#8, 0x07#8] = .ok (.ldhx (.imm 0xC007#16), []) ∧
  decode [0x9E#8, 0xD6#8, 0x01#8, 0x2C#8] = .ok (.lda (.mem (.sp2 0x012C#16)), []) ∧
  decode [0x16#8, 0x1B#8] = .ok (.bset 3 0x1B#8, []) ∧
  decode [0x6E#8, 0x03#8, 0x00#8] = .ok (.mov (.immDir 0x03#8 0x00#8), []) ∧
  decode [0xAB#8, 0x57#8] = .ok (.add (.imm 0x57#8), []) ∧
  decode [0x5C#8] = .ok (.incx, []) ∧
  decode [0xF3#8] = .ok (.cpx (.mem .ix), []) ∧
  decode [0x9E#8, 0xF3#8, 0x10#8] = .ok (.cphx (.mem (.sp1 0x10#8)), []) ∧
  decode [0x43#8] = .ok (.coma, []) ∧
  decode [0x38#8, 0x9D#8] = .ok (.lsl (.dir 0x9D#8), []) ∧
  decode [0x20#8, 0xF7#8] = .ok (.bra 0xF7#8, []) ∧
  decode [0x94#8] = .ok (.txs, [])

/-- Decoding the bytes of a well-formed instruction gives it back, in the primary spelling, and leaves the bytes after it (R80, R81, R101,
R102, R105). -/
def Obligations.DecodeEncodeRoundTrip : Prop :=
  ∀ (i : Instr) (rest : List Byte), i.wf = true → decode (encode i ++ rest) = .ok (i.primary, rest)

/-- Each decoded instruction is well-formed, in the primary spelling, and its encoding is the bytes it was read from: no two byte patterns
mean one instruction (R81, R101, R102, R105). -/
def Obligations.DecodedBytesAreItsEncoding : Prop :=
  ∀ (bs rest : List Byte) (i : Instr), decode bs = .ok (i, rest) → i.wf = true ∧ i.primary = i ∧ bs = encode i ++ rest

/-- The opcodes that R103 lists as having no row are refused, and no other is; a step that meets one refuses it with its bytes (R81,
R103, 60_exceptions.md R271; the refusal is decision D8, log 22). -/
def Obligations.UnlistedOpcodesRefused : Prop :=
  (∀ b ∈ unlistedPage1, ∀ rest, decode (b :: rest) = .error (.unspecifiedOpcode [b])) ∧
  (∀ b, b ≠ preByte → b ∉ unlistedPage1 → ∀ rest, 2 ≤ rest.length → ∃ i rest', decode (b :: rest) = .ok (i, rest')) ∧
  (∀ b, b ∉ listedPage2 → ∀ rest, decode (preByte :: b :: rest) = .error (.unspecifiedOpcode [preByte, b])) ∧
  (∀ b ∈ listedPage2, ∀ rest, 2 ≤ rest.length → ∃ i rest', decode (preByte :: b :: rest) = .ok (i, rest')) ∧
  (∀ s, s.params.haltAddr ≠ some s.pc → PlainAt s s.pc → s.byteAt s.pc ∈ unlistedPage1 →
    step s = .refused (.unspecifiedOpcode [s.byteAt s.pc])) ∧
  (∀ s, s.params.haltAddr ≠ some s.pc → PlainAt s s.pc → PlainAt s (s.pc + 1) → s.byteAt s.pc = preByte →
    s.byteAt (s.pc + 1) ∉ listedPage2 → step s = .refused (.unspecifiedOpcode [preByte, s.byteAt (s.pc + 1)]))

/-- The second spellings have the object codes and the meaning of the first, and decode to the first: ASL is LSL, BLO is BCS, BHS is BCC
(R105). -/
def Obligations.SecondSpellingsRunAlike : Prop :=
  (∀ m, encode (.asl m) = encode (.lsl m)) ∧ (∀ m s, exec (.asl m) s = exec (.lsl m) s) ∧
  (∀ b, encode (.asl (.dir b)) = [0x38#8, b] ∧ decode [0x38#8, b] = .ok (.lsl (.dir b), [])) ∧
  (∀ b, encode (.asl (.ix1 b)) = [0x68#8, b] ∧ decode [0x68#8, b] = .ok (.lsl (.ix1 b), [])) ∧
  (encode (.asl .ix) = [0x78#8] ∧ decode [0x78#8] = .ok (.lsl .ix, [])) ∧
  (∀ b, encode (.asl (.sp1 b)) = [0x9E#8, 0x68#8, b] ∧ decode [0x9E#8, 0x68#8, b] = .ok (.lsl (.sp1 b), [])) ∧
  encode .asla = [0x48#8] ∧ decode [0x48#8] = .ok (.lsla, []) ∧ (∀ s, exec .asla s = exec .lsla s) ∧
  encode .aslx = [0x58#8] ∧ decode [0x58#8] = .ok (.lslx, []) ∧ (∀ s, exec .aslx s = exec .lslx s) ∧
  (∀ rr, encode (.blo rr) = [0x25#8, rr] ∧ decode [0x25#8, rr] = .ok (.bcs rr, []) ∧ ∀ s, exec (.blo rr) s = exec (.bcs rr) s) ∧
  (∀ rr, encode (.bhs rr) = [0x24#8, rr] ∧ decode [0x24#8, rr] = .ok (.bcc rr, []) ∧ ∀ s, exec (.bhs rr) s = exec (.bcc rr) s)

/-- The eight-mode pattern of 42_add_sub_mul_div.md, for its operations and their low nibbles: bytes and cycles. -/
def Obligations.EightModePattern : Prop :=
  ∀ p ∈ [(Instr.sub, 0x0#8), (Instr.cmp, 0x1#8), (Instr.sbc, 0x2#8), (Instr.cpx, 0x3#8), (Instr.and, 0x4#8), (Instr.bit, 0x5#8),
      (Instr.lda, 0x6#8), (Instr.eor, 0x8#8), (Instr.adc, 0x9#8), (Instr.ora, 0xA#8), (Instr.add, 0xB#8), (Instr.ldx, 0xE#8)],
    ∀ (b c : Byte),
      encode (p.1 (.imm b)) = [0xA0#8 + p.2, b] ∧ (p.1 (.imm b)).cycles = some 2 ∧
      encode (p.1 (.mem (.dir b))) = [0xB0#8 + p.2, b] ∧ (p.1 (.mem (.dir b))).cycles = some 3 ∧
      encode (p.1 (.mem (.ext (joinBytes b c)))) = [0xC0#8 + p.2, b, c] ∧ (p.1 (.mem (.ext (joinBytes b c)))).cycles = some 4 ∧
      encode (p.1 (.mem (.ix2 (joinBytes b c)))) = [0xD0#8 + p.2, b, c] ∧ (p.1 (.mem (.ix2 (joinBytes b c)))).cycles = some 4 ∧
      encode (p.1 (.mem (.ix1 b))) = [0xE0#8 + p.2, b] ∧ (p.1 (.mem (.ix1 b))).cycles = some 3 ∧
      encode (p.1 (.mem .ix)) = [0xF0#8 + p.2] ∧ (p.1 (.mem .ix)).cycles = some 3 ∧
      encode (p.1 (.mem (.sp2 (joinBytes b c)))) = [0x9E#8, 0xD0#8 + p.2, b, c] ∧
      (p.1 (.mem (.sp2 (joinBytes b c)))).cycles = some 5 ∧
      encode (p.1 (.mem (.sp1 b))) = [0x9E#8, 0xE0#8 + p.2, b] ∧ (p.1 (.mem (.sp1 b))).cycles = some 4

/-! ### The step -/

/-- When the bytes fetched at pc decode to an instruction, the step is that instruction's meaning, in the state that the fetch leaves: no
byte is over, the instruction is well-formed, and the fetch changed nothing but that the platform saw, in order, its reads of the bytes that
lie at IO locations, each a draw (30_encoding.md R80, R81; the reads of IO locations are log 9, a DESIGN CHOICE). -/
def Obligations.StepRunsDecodedInstruction : Prop :=
  ∀ (s s1 : State) (bs rest : List Byte) (i : Instr), s.params.haltAddr ≠ some s.pc → fetch s = .next (bs, s1) →
    decode bs = .ok (i, rest) →
    step s = exec i s1 ∧ rest = [] ∧ i.wf = true ∧
      s1 = { s with
        ioLog := (fetchReads s s.pc bs).reverse ++ s.ioLog
        draws := s.draws + (fetchReads s s.pc bs).length }

/-- Where the bytes of a well-formed instruction stand at pc in RAM or NVM, the step is its meaning at that very state (R80, R81, R105). -/
def Obligations.StepRunsStoredInstruction : Prop :=
  ∀ (s : State) (i : Instr), s.params.haltAddr ≠ some s.pc → i.wf = true → BytesAt s s.pc (encode i) → step s = exec i.primary s

/-- A step stops before the fetch at the halt address (92_eei_decisions.md D20, log 6), and refuses a fetch where nothing stands
(60_exceptions.md R271). -/
def Obligations.StepStopsBeforeInstruction : Prop :=
  (∀ s, s.params.haltAddr = some s.pc → step s = .fault (.halted s.pc)) ∧
  (∀ s, s.params.haltAddr ≠ some s.pc → s.region s.pc = .none → step s = .refused (.unmappedAccess s.pc))

/-- `next` is pc plus the byte count, modulo 2^16 (30_encoding.md R83): where every instruction goes but JMP, which goes to its effective
address, and a taken branch, which goes to `next` plus its signed offset (10_state.md R29; the modulus is D1, log 20). -/
def Obligations.PcAfterInstruction : Prop :=
  ∀ (i : Instr) (s t : State), i.wf = true → exec i s = .next t →
    match i with
    | .jmp m => t.pc = modeAddr m s
    | _ =>
      match i.branchOffset with
      | some rr => t.pc = branchGoal true rr s ∨ t.pc = branchGoal false rr s
      | none => t.pc = BitVec.ofNat 16 (s.pc.toNat + (encode i).length)

/-! ### Memory -/

/-- What a byte read and a byte write do in each region (20_memory.md R52, R58, R59, R60). A write is first checked as D7 and D29 say
(log 10). That the history of the platform grows by the access, that a read of an IO location is a draw, and that a write to one changes no
byte is log 9, a DESIGN CHOICE; that a store to NVM completes with no other effect is D29, log 11, DEDUCED. -/
def Obligations.RegionBehaviour : Prop :=
  (∀ a s, PlainAt s a → memRead a s = .next (s.byteAt a, s)) ∧
  (∀ a s, s.region a = .io →
    ∃ v, memRead a s = .next (v, { s with ioLog := .read a v :: s.ioLog, draws := s.draws + 1 })) ∧
  (∀ a s, s.region a = .none → memRead a s = .refused (.unmappedAccess a)) ∧
  (∀ a v s, Writable s a → s.mem.wf →
    ∃ m, memWrite a v s = .next { s with mem := m } ∧ m.wf ∧ m.read a.toNat = v ∧
      ∀ b : Addr, b ≠ a → m.read b.toNat = s.mem.read b.toNat) ∧
  (∀ a v s, s.region a = .nvm → s.inProgramText a = false → s.params.refuseNvmWrite = false → memWrite a v s = .next s) ∧
  (∀ a v s, s.region a = .io → s.inProgramText a = false →
    memWrite a v s = .next { s with ioLog := .write a v :: s.ioLog }) ∧
  (∀ a v s, s.region a = .none → memWrite a v s = .refused (.unmappedAccess a))

/-- A read of a RAM location gives the latest write to it, and other RAM and NVM locations read as before (R63, which marks it as the
spec's own decision D6; log 21, DEDUCED). -/
def Obligations.RamReadsLatestWrite : Prop :=
  ∀ (a b : Addr) (v : Byte) (s : State), s.mem.wf → Writable s a → PlainAt s b →
    ∃ t, memWrite a v s = .next t ∧ memRead a t = .next (v, t) ∧
      memRead b t = .next (if b = a then v else s.byteAt b, t)

/-- A 16-bit access is two byte accesses, the high byte at M first, the low byte at M + 1 modulo 2^16 (R53, R54, R55; the order is D3, the
modulus D1; logs 19, 20). -/
def Obligations.SixteenBitAccess : Prop :=
  (∀ a s, memRead16 a s =
    andThen (memRead a s) fun (hi, s1) =>
      andThen (memRead (BitVec.ofNat 16 (a.toNat + 1)) s1) fun (lo, s2) =>
        .next (BitVec.ofNat 16 (256 * hi.toNat + lo.toNat), s2)) ∧
  (∀ a w s, memWrite16 a w s =
    andThen (memWrite a (BitVec.ofNat 8 (w.toNat / 256)) s) fun s1 =>
      memWrite (BitVec.ofNat 16 (a.toNat + 1)) (BitVec.ofNat 8 w.toNat) s1)

/-- A store is refused where nothing stands, else in the program text, else in NVM with `refuse_nvm_write`; and nowhere else (R58, R66,
60_exceptions.md R271; 92_eei_decisions.md D29; the order is log 10). -/
def Obligations.StoreRefusals : Prop :=
  ∀ (a : Addr) (v : Byte) (s : State),
    (s.region a = .none → memWrite a v s = .refused (.unmappedAccess a)) ∧
    (s.region a ≠ .none → s.inProgramText a = true → memWrite a v s = .refused (.writeToProgramText a)) ∧
    (s.region a = .nvm → s.inProgramText a = false → s.params.refuseNvmWrite = true → memWrite a v s = .refused (.nvmWrite a)) ∧
    (s.region a ≠ .none → s.inProgramText a = false → (s.region a = .nvm → s.params.refuseNvmWrite = false) →
      ∃ t, memWrite a v s = .next t)

/-- Every step keeps the canonical form of memory (the model's representation of R50; log 3). -/
def Obligations.MemoryStaysCanonical : Prop :=
  ∀ s t, s.mem.wf = true → step s = .next t → t.mem.wf = true

/-- The canonical form holds at reset, where no location is listed and each reads as the fill byte (log 3). -/
def Obligations.ResetMemoryCanonical : Prop :=
  State.reset.mem.wf = true ∧ ∀ a, State.reset.byteAt a = 0x00#8

/-- A step changes a byte only where RAM stands, outside the program text: never an NVM byte (R58, R59, extended to all stores by D29; log
11, DEDUCED), never a byte of the program text (R66, the decision D7; log 5). -/
def Obligations.StepChangesOnlyRam : Prop :=
  ∀ (s t : State) (a : Addr), step s = .next t → t.byteAt a ≠ s.byteAt a → s.region a = .ram ∧ s.inProgramText a = false

/-- No step changes the parameters of the launch and the platform (00_scope.md R6). -/
def Obligations.ParametersConstant : Prop :=
  ∀ s t, step s = .next t → t.params = s.params

/-- What a reset leaves with any memory and parameters there, and what State.reset holds, every field. PC is the big-endian word that the memory
holds at the reset vector, $FFFE and $FFFF (70_reset_and_hazards.md R291; that PC is loaded from it is PRESUMED, log 1). The spec states no
register's value but that CCR bits 6 and 5 read as one (10_state.md R32, R44), and it states the defaults of the four switches (00_scope.md R6). The values of H, SP, I and PC are the family's, PRESUMED (log 1). These are
DESIGN CHOICES: A, X and the other flags (log 2), the empty memory (log 3), every address RAM (log 4), no program text (log 5), no halt
address (log 6), the draw counter (log 8), the empty history of the platform (log 9). -/
def Obligations.ResetValues : Prop :=
  (∀ m p, (State.resetWith m p).pc = BitVec.ofNat 16 (256 * (m.read 0xFFFE).toNat + (m.read 0xFFFF).toNat) ∧
    (State.resetWith m p).mem = m ∧ (State.resetWith m p).params = p ∧
    State.resetWith m p = { State.reset with pc := (State.resetWith m p).pc, mem := m, params := p }) ∧
  State.reset.a = 0x00#8 ∧ State.reset.x = 0x00#8 ∧ State.reset.h = 0x00#8 ∧ State.reset.sp = 0x00FF#16 ∧
  State.reset.pc = joinBytes (State.reset.byteAt 0xFFFE#16) (State.reset.byteAt 0xFFFF#16) ∧
  State.reset.ccr.toByte = 0x68#8 ∧ State.reset.mem = [] ∧ State.reset.ioLog = [] ∧ State.reset.draws = 0 ∧
  State.reset.params.regions = [] ∧ (∀ a, State.reset.region a = .ram) ∧
  State.reset.params.programText = [] ∧ (∀ a, State.reset.inProgramText a = false) ∧ State.reset.params.haltAddr = none ∧
  State.reset.params.refuseHighOffsets = false ∧ State.reset.params.cautiousFlags = false ∧
  State.reset.params.refuseNvmWrite = false ∧ State.reset.params.acceptTxs = false

/-- Every byte that an instruction does not store to reads as before. The stored addresses are those of the instruction's writes in the
access table, computed as its meaning computes them; an instruction that makes no write leaves every byte as it was (R57). -/
def Obligations.StoresTouchOnlyTheirBytes : Prop :=
  ∀ (i : Instr) (s t : State) (b : Addr), exec i s = .next t → (∀ a, Access.write a ∈ accesses i s → b ≠ a) →
    t.byteAt b = s.byteAt b

/-- The platform behind IO locations sees the accesses of the access table that lie at IO locations, in that order, and nothing else (R57,
R60; CLR's read is D30, the order of 16-bit accesses D3; log 19). -/
def Obligations.PlatformSeesAccessesInOrder : Prop :=
  ∀ (i : Instr) (s t : State), exec i s = .next t →
    ∃ new, t.ioLog = new ++ s.ioLog ∧
      new.reverse.map accessOf = (accesses i s).filter fun x => s.region x.addr = .io

/-- An instruction is refused, with nothing of its effect, exactly where its offset or one of its accesses is, and by the first that is: an
IX1 or SP1 offset of $80 to $FF with `refuse_high_offsets`, an access where nothing stands, a store into the program text, a store to NVM
with `refuse_nvm_write`. Where none is, every instruction completes; TXS where it is accepted (R57, R58, R66, 60_exceptions.md R271;
92_eei_decisions.md D2, D5, D7, D8, D29; the order of a store's checks is log 10, that the offset comes first log 16). The other clauses
spell out each kind for some instructions. -/
def Obligations.RefusedAccesses : Prop :=
  (∀ i s r, firstRefusal i s = some r → exec i s = .refused r) ∧
  (∀ i s, firstRefusal i s = none → (i = .txs → s.params.acceptTxs = true) → ∃ t, exec i s = .next t) ∧
  (∀ m s, modeRefusal m s = none → s.region (modeAddr m s) = .nvm → s.inProgramText (modeAddr m s) = false →
    s.params.refuseNvmWrite = true →
    exec (.sta m) s = .refused (.nvmWrite (modeAddr m s)) ∧ exec (.inc m) s = .refused (.nvmWrite (modeAddr m s)) ∧
    exec (.lda (.mem m)) s ≠ .refused (.nvmWrite (modeAddr m s))) ∧
  (∀ m s, modeRefusal m s = none → s.region (modeAddr m s) = .none →
    exec (.lda (.mem m)) s = .refused (.unmappedAccess (modeAddr m s)) ∧
    exec (.sta m) s = .refused (.unmappedAccess (modeAddr m s)) ∧
    exec (.inc m) s = .refused (.unmappedAccess (modeAddr m s))) ∧
  (∀ m s, modeRefusal m s = none → s.region (modeAddr m s) ≠ .none → s.region (modeAddr m s + 1) = .none →
    exec (.ldhx (.mem m)) s = .refused (.unmappedAccess (modeAddr m s + 1)) ∧
    (storeRefusal (modeAddr m s) s = none → exec (.sthx m) s = .refused (.unmappedAccess (modeAddr m s + 1)))) ∧
  (∀ m s, modeRefusal m s = none → s.region (modeAddr m s) ≠ .none → s.inProgramText (modeAddr m s) = true →
    exec (.sta m) s = .refused (.writeToProgramText (modeAddr m s)) ∧
    exec (.inc m) s = .refused (.writeToProgramText (modeAddr m s)) ∧
    exec (.lda (.mem m)) s ≠ .refused (.writeToProgramText (modeAddr m s))) ∧
  (∀ ff s, s.params.refuseHighOffsets = true → 128 ≤ ff.toNat →
    exec (.lda (.mem (.ix1 ff))) s = .refused (.highOffset ff) ∧ exec (.sta (.sp1 ff)) s = .refused (.highOffset ff) ∧
    exec (.jmp (.ix1 ff)) s = .refused (.highOffset ff))

/-! ### Whole-machine tables -/

/-- A register that an instruction is not listed as writing in the access table of 10_state.md R25 stays as it was (and, outside the
tables, TXS writes SP: 47_referenced_untabled.md R260, log 32). -/
def Obligations.RegisterWriteTable : Prop :=
  ∀ (i : Instr) (s t : State), exec i s = .next t →
    (i.writesA = false → t.a = s.a) ∧ (i.writesX = false → t.x = s.x) ∧ (i.writesH = false → t.h = s.h) ∧
      (i.writesSP = false → t.sp = s.sp)

/-- The summary of CCR effects, every row (R39; its cells marked `gk` are general knowledge, logs 14, 15, 18). With `cautious_flags`, C
after INC, DEC, TST and CLR is a free value instead (00_scope.md R6), so the premise. TXS has no row in R39: that it changes no flag is
47_referenced_untabled.md R260, G11, PRESUMED (log 32). -/
def Obligations.CcrEffectsTable : Prop :=
  ∀ (i : Instr) (s t : State), s.params.cautiousFlags = false → exec i s = .next t →
    i.ccrRow.v.allows s.ccr.v t.ccr.v ∧ i.ccrRow.h.allows s.ccr.h t.ccr.h ∧ i.ccrRow.i.allows s.ccr.i t.ccr.i ∧
      i.ccrRow.n.allows s.ccr.n t.ccr.n ∧ i.ccrRow.z.allows s.ccr.z t.ccr.z ∧ i.ccrRow.c.allows s.ccr.c t.ccr.c

/-! ### Loads and stores -/

/-- LDA and LDX: the register takes the operand, V = 0, N and Z by it; no other register, flag or byte changes (40_load_store.md R120, R121,
R123; the unsigned 8-bit offsets are D2, log 16). -/
def Obligations.LoadsReplaceRegister : Prop :=
  OperandRuns .lda (fun m s => { s with a := m, ccr := movedFlags m s.ccr }) ∧
  OperandRuns .ldx (fun m s => { s with x := m, ccr := movedFlags m s.ccr })

/-- LDHX: H takes the byte at M and X the byte at M + 1 (or jj and kk), N bit 15 and Z all sixteen bits (R122; 16-bit N and Z are D24,
log 17; the order D3, log 19). -/
def Obligations.LdhxLoadsPair : Prop :=
  Operand16Runs .ldhx fun w s =>
    { s with
      h := BitVec.ofNat 8 (w.toNat / 256)
      x := BitVec.ofNat 8 w.toNat
      ccr := { s.ccr with v := false, n := w.getLsbD 15, z := decide (w = 0) } }

/-- STA and STX: the byte is written without a read, V = 0, N and Z by the byte stored, whatever memory then holds (R124, R126). -/
def Obligations.StoresWriteRegister : Prop :=
  ∀ m s, StoreReady m s →
    exec (.sta m) s =
      .next { afterStore (modeAddr m s) s.a s with
        ccr := movedFlags s.a s.ccr, pc := s.pc + BitVec.ofNat 16 (Instr.sta m).size } ∧
    exec (.stx m) s =
      .next { afterStore (modeAddr m s) s.x s with
        ccr := movedFlags s.x s.ccr, pc := s.pc + BitVec.ofNat 16 (Instr.stx m).size }

/-- STHX: H to M, then X to M + 1 as a 16-bit sum; V = 0, N = H[7], Z when both bytes are zero (R125; the order D3, 16-bit Z D24; logs 17,
19). -/
def Obligations.SthxStoresPair : Prop :=
  ∀ m s, Store16Ready m s →
    exec (.sthx m) s =
      .next { afterStore (modeAddr m s + 1) s.x (afterStore (modeAddr m s) s.h s) with
        ccr := { s.ccr with v := false, n := s.h.getLsbD 7, z := decide (s.h = 0 ∧ s.x = 0) }
        pc := s.pc + BitVec.ofNat 16 (Instr.sthx m).size }

/-! ### Bits, moves, transfers -/

/-- BSET and BCLR: `op dd` with the bit number in the opcode, five cycles; a read of the whole byte, then always a write of it with bit n
set or cleared and the other seven as read; no flag and no register changes (41_bit_move_transfer.md R140, R141). -/
def Obligations.BitSetAndClear : Prop :=
  ∀ (n : Fin 8) (dd : Byte) (s : State),
    encode (.bset n dd) = [BitVec.ofNat 8 (16 + 2 * n.val), dd] ∧ encode (.bclr n dd) = [BitVec.ofNat 8 (17 + 2 * n.val), dd] ∧
    (Instr.bset n dd).cycles = some 5 ∧ (Instr.bclr n dd).cycles = some 5 ∧
    (storeRefusal (zext16 dd) s = none →
      ∃ r q : Byte,
        (∀ k, k < 8 → r.getLsbD k = if k = n.val then true else (loadValue (zext16 dd) s).getLsbD k) ∧
        (∀ k, k < 8 → q.getLsbD k = if k = n.val then false else (loadValue (zext16 dd) s).getLsbD k) ∧
        exec (.bset n dd) s =
          .next { afterStore (zext16 dd) r (afterLoad (zext16 dd) s) with pc := s.pc + 2 } ∧
        exec (.bclr n dd) s =
          .next { afterStore (zext16 dd) q (afterLoad (zext16 dd) s) with pc := s.pc + 2 })

/-- MOV: the source byte to the destination, source first; V = 0, N and Z by the byte; the X+ forms then add one to H:X as sixteen bits (R142,
30_encoding.md R96 to R99; the order in DIR/DIR is log 28, the modulus D1, log 20). -/
def Obligations.MovForms : Prop :=
  (∀ src dst s, s.region (zext16 src) ≠ .none → storeRefusal (zext16 dst) s = none →
    exec (.mov (.dirDir src dst)) s =
      .next { afterStore (zext16 dst) (loadValue (zext16 src) s) (afterLoad (zext16 src) s) with
        ccr := movedFlags (loadValue (zext16 src) s) s.ccr, pc := s.pc + 3 }) ∧
  (∀ dd s, s.region (zext16 dd) ≠ .none → storeRefusal s.hx s = none →
    exec (.mov (.dirIxp dd)) s =
      .next { afterStore s.hx (loadValue (zext16 dd) s) (afterLoad (zext16 dd) s) with
        h := BitVec.ofNat 8 ((256 * s.h.toNat + s.x.toNat + 1) / 256)
        x := BitVec.ofNat 8 (s.x.toNat + 1)
        ccr := movedFlags (loadValue (zext16 dd) s) s.ccr
        pc := s.pc + 2 }) ∧
  (∀ ii dd s, storeRefusal (zext16 dd) s = none →
    exec (.mov (.immDir ii dd)) s =
      .next { afterStore (zext16 dd) ii s with ccr := movedFlags ii s.ccr, pc := s.pc + 3 }) ∧
  (∀ dd s, s.region s.hx ≠ .none → storeRefusal (zext16 dd) s = none →
    exec (.mov (.ixpDir dd)) s =
      .next { afterStore (zext16 dd) (loadValue s.hx s) (afterLoad s.hx s) with
        h := BitVec.ofNat 8 ((256 * s.h.toNat + s.x.toNat + 1) / 256)
        x := BitVec.ofNat 8 (s.x.toNat + 1)
        ccr := movedFlags (loadValue s.hx s) s.ccr
        pc := s.pc + 2 })

/-- TAX, TXA and NSA: one byte, one cycle; the destination takes the value and nothing else but pc changes (R143, R144, R147). -/
def Obligations.TransfersCopyOnly : Prop :=
  ∀ s : State,
    encode .tax = [0x97#8] ∧ decode [0x97#8] = .ok (.tax, []) ∧ Instr.tax.cycles = some 1 ∧
    exec .tax s = .next { s with x := s.a, pc := s.pc + 1 } ∧
    encode .txa = [0x9F#8] ∧ decode [0x9F#8] = .ok (.txa, []) ∧ Instr.txa.cycles = some 1 ∧
    exec .txa s = .next { s with a := s.x, pc := s.pc + 1 } ∧
    encode .nsa = [0x62#8] ∧ decode [0x62#8] = .ok (.nsa, []) ∧ Instr.nsa.cycles = some 1 ∧
    exec .nsa s = .next { s with a := BitVec.ofNat 8 (16 * (s.a.toNat % 16) + s.a.toNat / 16), pc := s.pc + 1 }

/-- TAP loads the six flags from A and ignores A[6] and A[5]; TPA reads them back with bits 6 and 5 at one (R145, R146, 10_state.md R32).
That the left-most printed column is bit 7 is PRESUMED (G1, log 13). -/
def Obligations.CcrTransfers : Prop :=
  (∀ s, exec .tap s =
    .next { s with
      ccr := { v := s.a.getLsbD 7, h := s.a.getLsbD 4, i := s.a.getLsbD 3, n := s.a.getLsbD 2, z := s.a.getLsbD 1, c := s.a.getLsbD 0 }
      pc := s.pc + 1 }) ∧
  (∀ s, exec .tpa s =
    .next { s with
      a := BitVec.ofNat 8 (128 * s.ccr.v.toNat + 96 + 16 * s.ccr.h.toNat + 8 * s.ccr.i.toNat + 4 * s.ccr.n.toNat +
        2 * s.ccr.z.toNat + s.ccr.c.toNat)
      pc := s.pc + 1 })

/-! ### Add, subtract, multiply, divide -/

/-- ADD and ADC: A the sum modulo 256, C a sum above 255, V a signed sum that does not fit, half carry out of bit 3, N and Z by the result;
ADD does not read C (42_add_sub_mul_div.md R160, R161, R168; the formulas are PRESUMED, D16, log 13). -/
def Obligations.AddSetsFlags : Prop :=
  OperandRuns .add (fun m s => sumLeaves m false s) ∧ OperandRuns .adc (fun m s => sumLeaves m s.ccr.c s)

/-- SUB and SBC: A the difference modulo 256, C a borrow, V a signed difference that does not fit, N and Z by the result; the half carry
stays (R164, R165, R168; the formulas are PRESUMED, D16, log 13). -/
def Obligations.SubtractSetsFlags : Prop :=
  OperandRuns .sub (fun m s => { s with a := difference8 s.a m false, ccr := differenceFlags8 s.a m false s.ccr }) ∧
  OperandRuns .sbc (fun m s => { s with a := difference8 s.a m s.ccr.c, ccr := differenceFlags8 s.a m s.ccr.c s.ccr })

/-- Adding or subtracting the low bytes and then the high bytes with the carry gives the 16-bit sum or difference of the two-byte numbers,
with C the carry or the borrow of the whole (R160, R165: multibyte additions and subtractions). -/
def Obligations.MultibyteAddSubtract : Prop :=
  ∀ (lo hi : Byte) (high : Byte) (s : State),
    (∃ t u, exec (.add (.imm lo)) s = .next t ∧ exec (.adc (.imm hi)) { t with a := high } = .next u ∧
      65536 * u.ccr.c.toNat + 256 * u.a.toNat + t.a.toNat =
        (256 * high.toNat + s.a.toNat) + (256 * hi.toNat + lo.toNat)) ∧
    (∃ t u, exec (.sub (.imm lo)) s = .next t ∧ exec (.sbc (.imm hi)) { t with a := high } = .next u ∧
      256 * u.a.toNat + t.a.toNat + (256 * hi.toNat + lo.toNat) =
        65536 * u.ccr.c.toNat + (256 * high.toNat + s.a.toNat))

/-- AIS adds the signed immediate to SP modulo 2^16 and sets no flag (R162; the modulus is D1, log 20). -/
def Obligations.AisMovesStackPointer : Prop :=
  ∀ ii s, exec (.ais ii) s = .next { s with sp := BitVec.ofInt 16 ((s.sp.toNat : Int) + ii.toInt), pc := s.pc + 2 }

/-- AIX: `AF ii`, two cycles; adds the signed immediate to H:X as sixteen bits, carries into H, and sets no flag (R163). -/
def Obligations.AixMovesIndexPair : Prop :=
  ∀ ii s, encode (.aix ii) = [0xAF#8, ii] ∧ decode [0xAF#8, ii] = .ok (.aix ii, []) ∧ (Instr.aix ii).cycles = some 2 ∧
    exec (.aix ii) s =
      .next { s with
        h := BitVec.ofInt 8 ((256 * (s.h.toNat : Int) + s.x.toNat + ii.toInt) / 256)
        x := BitVec.ofInt 8 ((s.x.toNat : Int) + ii.toInt)
        pc := s.pc + 2 }

/-- MUL: `42`, five cycles; X:A the product of X and A as unsigned numbers, half carry and C cleared, every other flag, H and SP as they
were (R166). -/
def Obligations.MulLeavesProduct : Prop :=
  ∀ s : State, encode .mul = [0x42#8] ∧ decode [0x42#8] = .ok (.mul, []) ∧ Instr.mul.cycles = some 5 ∧
    exec .mul s =
      .next { s with
        x := BitVec.ofNat 8 (s.x.toNat * s.a.toNat / 256)
        a := BitVec.ofNat 8 (s.x.toNat * s.a.toNat)
        ccr := { s.ccr with h := false, c := false }
        pc := s.pc + 1 }

/-- DIV: where X is above H (the quotient of H:A then fits), A the quotient, H the remainder, Z of the quotient, C = 0; else, a zero
divisor among the cases, C = 1 and A, H, Z are free values (R167; the free values are D13, log 8). X and the other flags stay. -/
def Obligations.DivQuotientOrCarry : Prop :=
  ∀ s : State,
    (s.h.toNat < s.x.toNat →
      exec .div s =
        .next { s with
          a := BitVec.ofNat 8 ((256 * s.h.toNat + s.a.toNat) / s.x.toNat)
          h := BitVec.ofNat 8 ((256 * s.h.toNat + s.a.toNat) % s.x.toNat)
          ccr := { s.ccr with z := decide ((256 * s.h.toNat + s.a.toNat) / s.x.toNat = 0), c := false }
          pc := s.pc + 1 }) ∧
    (s.x.toNat ≤ s.h.toNat →
      ∃ a h z, exec .div s =
        .next { s with a := a, h := h, ccr := { s.ccr with z := z, c := true }, pc := s.pc + 1, draws := s.draws + 1 })

/-! ### Other arithmetic -/

/-- INC and DEC with their A and X forms: plus or minus one modulo 256, V where the signed result does not fit, N and Z by the result; C
stays, or is a free value with `cautious_flags` (43_other_arithmetic.md R180, R181, R189; the flags are PRESUMED, D17, log 14). -/
def Obligations.IncrementDecrement : Prop :=
  UnaryRuns .inc .inca .incx (fun t _ => BitVec.ofNat 8 (t.toNat + 1))
    (fun t s => { signAndZero (BitVec.ofNat 8 (t.toNat + 1)) s.ccr with v := overflows8 (t.toInt + 1), c := keptCarry s }) flagDraws ∧
  UnaryRuns .dec .deca .decx (fun t _ => BitVec.ofInt 8 ((t.toNat : Int) - 1))
    (fun t s => { signAndZero (BitVec.ofInt 8 ((t.toNat : Int) - 1)) s.ccr with v := overflows8 (t.toInt - 1), c := keptCarry s })
    flagDraws

/-- CLR, CLRA, CLRX, CLRH: the place becomes zero, V = 0, N = 0, Z = 1; C stays, or is a free value with `cautious_flags`; CLRH leaves X
and CLRX leaves H (R182; N, Z and C are PRESUMED, D17, log 14; the memory forms' read is D30, log 19). -/
def Obligations.ClearMakesZero : Prop :=
  UnaryRuns .clr .clra .clrx (fun _ _ => 0x00#8) (fun _ s => { s.ccr with v := false, n := false, z := true, c := keptCarry s })
    flagDraws ∧
  ∀ s, exec .clrh s =
    .next { s with
      h := 0x00#8
      ccr := { s.ccr with v := false, n := false, z := true, c := keptCarry s }
      pc := s.pc + 1
      draws := flagDraws s }

/-- NEG with its A and X forms: zero minus the operand, V exactly for $80, C exactly for an operand that is not zero, N and Z by the
result (R183; N, Z and C are PRESUMED, D17, log 14). -/
def Obligations.NegateTwosComplement : Prop :=
  UnaryRuns .neg .nega .negx (fun t _ => BitVec.ofInt 8 (-t.toInt))
    (fun t s =>
      { signAndZero (BitVec.ofInt 8 (-t.toInt)) s.ccr with v := overflows8 (-t.toInt), c := decide (t ≠ 0) })
    (fun s => s.draws)

/-- CMP and CPX: the flags of the difference; A, X and the operand stay (R184, R186; the formulas are PRESUMED, D16, D17, logs 13, 14). -/
def Obligations.CompareSetsFlagsOnly : Prop :=
  OperandRuns .cmp (fun m s => { s with ccr := differenceFlags8 s.a m false s.ccr }) ∧
  OperandRuns .cpx (fun m s => { s with ccr := differenceFlags8 s.x m false s.ccr })

/-- CPHX: the flags of H:X minus the 16-bit operand; H, X and memory stay (R185; the flags are PRESUMED, D17, D24, logs 14, 17). -/
def Obligations.CphxSetsFlagsOnly : Prop :=
  Operand16Runs .cphx fun w s => { s with ccr := differenceFlags16 s.hx w s.ccr }

/-- TST, TSTA, TSTX: V = 0, N and Z by the value, which stays; C stays, or is a free value with `cautious_flags` (R187; C is PRESUMED, D17,
log 14). -/
def Obligations.TestSetsFlagsOnly : Prop :=
  (∀ m s, ModeReady m s →
    exec (.tst m) s =
      .next { afterLoad (modeAddr m s) s with
        ccr := { movedFlags (loadValue (modeAddr m s) s) s.ccr with c := keptCarry (afterLoad (modeAddr m s) s) }
        draws := flagDraws (afterLoad (modeAddr m s) s)
        pc := s.pc + BitVec.ofNat 16 (Instr.tst m).size }) ∧
  (∀ s, exec .tsta s =
    .next { s with ccr := { movedFlags s.a s.ccr with c := keptCarry s }, draws := flagDraws s, pc := s.pc + 1 }) ∧
  (∀ s, exec .tstx s =
    .next { s with ccr := { movedFlags s.x s.ccr with c := keptCarry s }, draws := flagDraws s, pc := s.pc + 1 })

/-- DAA by the nine rows of its table, and outside them with A and C free values and N, Z by the free A; V is a free value, half carry and
I stay (R188; the table is PRESUMED, G5, G6, log 18; the free values are D12, log 8). -/
def Obligations.DaaFollowsTable : Prop :=
  ∀ s : State,
    (InDaaRow s false 0 9 false 0 9 → DaaLeaves s s.a false) ∧
    (InDaaRow s false 0 8 false 10 15 → DaaLeaves s (s.a + 0x06#8) false) ∧
    (InDaaRow s false 0 9 true 0 3 → DaaLeaves s (s.a + 0x06#8) false) ∧
    (InDaaRow s false 10 15 false 0 9 → DaaLeaves s (s.a + 0x60#8) true) ∧
    (InDaaRow s false 9 15 false 10 15 → DaaLeaves s (s.a + 0x66#8) true) ∧
    (InDaaRow s false 10 15 true 0 3 → DaaLeaves s (s.a + 0x66#8) true) ∧
    (InDaaRow s true 0 2 false 0 9 → DaaLeaves s (s.a + 0x60#8) true) ∧
    (InDaaRow s true 0 2 false 10 15 → DaaLeaves s (s.a + 0x66#8) true) ∧
    (InDaaRow s true 0 3 true 0 3 → DaaLeaves s (s.a + 0x66#8) true) ∧
    (s.ccr.h = true → 4 ≤ s.a.toNat % 16 → ∃ r c, DaaLeaves s r c) ∧
    (s.ccr.c = true → 4 ≤ s.a.toNat / 16 → ∃ r c, DaaLeaves s r c) ∧
    (s.ccr.c = true → s.a.toNat / 16 = 3 → s.ccr.h = false → ∃ r c, DaaLeaves s r c)

/-- After ADD or ADC of two legal two-digit BCD numbers, DAA leaves in A the two low digits of the decimal sum, and in C its hundreds
(R188; it rests on the PRESUMED table and half carry, logs 13, 18). -/
def Obligations.DaaCorrectsBcdSum : Prop :=
  ∀ (m : Byte) (s : State), IsBcd s.a → IsBcd m →
    (∃ t u, exec (.add (.imm m)) s = .next t ∧ exec .daa t = .next u ∧ IsBcd u.a ∧
      100 * u.ccr.c.toNat + bcdValue u.a = bcdValue s.a + bcdValue m) ∧
    (∃ t u, exec (.adc (.imm m)) s = .next t ∧ exec .daa t = .next u ∧ IsBcd u.a ∧
      100 * u.ccr.c.toNat + bcdValue u.a = bcdValue s.a + bcdValue m + s.ccr.c.toNat)

/-! ### Logical -/

/-- AND, ORA, EOR: A takes the bitwise result, V = 0, N and Z by it; BIT sets the flags of AND and leaves A; C and the half carry stay
(44_logical.md R200, R201, R202, R204; N and Z of AND, ORA and EOR are PRESUMED, D18, log 14). -/
def Obligations.LogicalResults : Prop :=
  OperandRuns .and (fun m s => { s with a := s.a &&& m, ccr := movedFlags (s.a &&& m) s.ccr }) ∧
  OperandRuns .ora (fun m s => { s with a := s.a ||| m, ccr := movedFlags (s.a ||| m) s.ccr }) ∧
  OperandRuns .eor (fun m s => { s with a := s.a ^^^ m, ccr := movedFlags (s.a ^^^ m) s.ccr }) ∧
  OperandRuns .bit (fun m s => { s with ccr := movedFlags (s.a &&& m) s.ccr })

/-- COM with its A and X forms: $FF minus the operand, V = 0, C = 1, N and Z by the result (R203; N and Z are PRESUMED, D18, log 14). -/
def Obligations.ComplementInverts : Prop :=
  UnaryRuns .com .coma .comx (fun t _ => BitVec.ofNat 8 (255 - t.toNat))
    (fun t s => { movedFlags (BitVec.ofNat 8 (255 - t.toNat)) s.ccr with c := true }) (fun s => s.draws)

/-! ### Shifts and rotates -/

/-- LSL, and ASL, its second spelling, with their A and X forms: twice the operand modulo 256, C the old bit 7, V where the sign changed,
or a free value with `cautious_flags` (45_shift_rotate.md R210, R211; V is PRESUMED, D19, log 15). -/
def Obligations.ShiftLeftDoubles : Prop :=
  UnaryRuns .lsl .lsla .lslx (fun t _ => BitVec.ofNat 8 (2 * t.toNat))
    (fun t s =>
      { signAndZero (BitVec.ofNat 8 (2 * t.toNat)) s.ccr with
        v := shiftOverflow (t.getLsbD 6 != t.getLsbD 7) s, c := decide (256 ≤ 2 * t.toNat) }) flagDraws ∧
  UnaryRuns .asl .asla .aslx (fun t _ => BitVec.ofNat 8 (2 * t.toNat))
    (fun t s =>
      { signAndZero (BitVec.ofNat 8 (2 * t.toNat)) s.ccr with
        v := shiftOverflow (t.getLsbD 6 != t.getLsbD 7) s, c := decide (256 ≤ 2 * t.toNat) }) flagDraws

/-- LSR halves an unsigned operand, with N = 0; ASR halves a signed one toward minus infinity; C is the old bit 0, V = N xor C, or a free
value with `cautious_flags` (R210, R212, R213; V is PRESUMED, D19, log 15). -/
def Obligations.ShiftRightHalves : Prop :=
  UnaryRuns .lsr .lsra .lsrx (fun t _ => BitVec.ofNat 8 (t.toNat / 2))
    (fun t s =>
      { s.ccr with
        v := shiftOverflow (decide (t.toNat % 2 = 1)) s
        n := false
        z := decide (t.toNat / 2 = 0)
        c := decide (t.toNat % 2 = 1) }) flagDraws ∧
  UnaryRuns .asr .asra .asrx (fun t _ => BitVec.ofInt 8 (t.toInt / 2))
    (fun t s =>
      { s.ccr with
        v := shiftOverflow (decide (t.toInt < 0) != decide (t.toNat % 2 = 1)) s
        n := decide (t.toInt < 0)
        z := decide (t.toInt / 2 = 0)
        c := decide (t.toNat % 2 = 1) }) flagDraws

/-- ROL and ROR move the nine bits of the operand and C by one place (R210, R214, R215; V is PRESUMED, D19, log 15). -/
def Obligations.RotatesThroughCarry : Prop :=
  UnaryRuns .rol .rola .rolx (fun t s => BitVec.ofNat 8 (2 * t.toNat + s.ccr.c.toNat))
    (fun t s =>
      { signAndZero (BitVec.ofNat 8 (2 * t.toNat + s.ccr.c.toNat)) s.ccr with
        v := shiftOverflow (t.getLsbD 6 != t.getLsbD 7) s, c := t.getLsbD 7 }) flagDraws ∧
  UnaryRuns .ror .rora .rorx (fun t s => BitVec.ofNat 8 (128 * s.ccr.c.toNat + t.toNat / 2))
    (fun t s =>
      { signAndZero (BitVec.ofNat 8 (128 * s.ccr.c.toNat + t.toNat / 2)) s.ccr with
        v := shiftOverflow (s.ccr.c != t.getLsbD 0) s, c := t.getLsbD 0 }) flagDraws

/-- A 24-bit left shift is LSL of the low byte and ROL of the other two, low to high, and leaves the old bit 23 in C; a 24-bit right shift
is LSR of the high byte and ROR of the other two, and leaves the old bit 0 in C (R216, without its `clc`, which is not needed). -/
def Obligations.MultibyteShifts : Prop :=
  ∀ (dd : Byte) (s : State), dd.toNat ≤ 253 → s.mem.wf → Writable s (zext16 dd) → Writable s (zext16 (dd + 1)) →
    Writable s (zext16 (dd + 2)) →
    (∃ t u w, exec (.lsl (.dir (dd + 2))) s = .next t ∧ exec (.rol (.dir (dd + 1))) t = .next u ∧ exec (.rol (.dir dd)) u = .next w ∧
      value24 dd w = 2 * value24 dd s % 2 ^ 24 ∧ w.ccr.c = decide (2 ^ 23 ≤ value24 dd s)) ∧
    (∃ t u w, exec (.lsr (.dir dd)) s = .next t ∧ exec (.ror (.dir (dd + 1))) t = .next u ∧ exec (.ror (.dir (dd + 2))) u = .next w ∧
      value24 dd w = value24 dd s / 2 ∧ w.ccr.c = decide (value24 dd s % 2 = 1))

/-! ### Jumps and branches -/

/-- JMP goes to its effective address and changes nothing else; the effective address of each mode, as integers modulo 2^16; and only an
offset of $80 or more, with the switch, is refused (46_jump_branch.md R220; 30_encoding.md R87 to R93; unsigned offsets are D2, log 16, the
modulus D1, log 20). -/
def Obligations.EffectiveAddresses : Prop :=
  (∀ m s, modeRefusal m s = none → exec (.jmp m) s = .next { s with pc := modeAddr m s }) ∧
  (∀ s, ∀ dd, modeAddr (.dir dd) s = BitVec.ofNat 16 dd.toNat ∧ modeRefusal (.dir dd) s = none) ∧
  (∀ s, ∀ hhll, modeAddr (.ext hhll) s = hhll ∧ modeRefusal (.ext hhll) s = none) ∧
  (∀ s, ∀ eeff, modeAddr (.ix2 eeff) s = BitVec.ofNat 16 (256 * s.h.toNat + s.x.toNat + eeff.toNat) ∧
    modeRefusal (.ix2 eeff) s = none) ∧
  (∀ s, ∀ ff, modeAddr (.ix1 ff) s = BitVec.ofNat 16 (256 * s.h.toNat + s.x.toNat + ff.toNat) ∧
    (modeRefusal (.ix1 ff) s = none ↔ s.params.refuseHighOffsets = false ∨ ff.toNat < 128)) ∧
  (∀ s, modeAddr .ix s = BitVec.ofNat 16 (256 * s.h.toNat + s.x.toNat) ∧ modeRefusal .ix s = none) ∧
  (∀ s, ∀ eeff, modeAddr (.sp2 eeff) s = BitVec.ofNat 16 (s.sp.toNat + eeff.toNat) ∧ modeRefusal (.sp2 eeff) s = none) ∧
  (∀ s, ∀ ff, modeAddr (.sp1 ff) s = BitVec.ofNat 16 (s.sp.toNat + ff.toNat) ∧
    (modeRefusal (.sp1 ff) s = none ↔ s.params.refuseHighOffsets = false ∨ ff.toNat < 128))

/-- The branches on one condition: encoding, condition, target, three cycles, and nothing but pc changes (R221 to R223, R226 to R235; that
the target wraps modulo 2^16 is D1, log 20). -/
def Obligations.SimpleBranches : Prop :=
  BranchRuns .bra 0x20#8 (fun _ => true) ∧ BranchRuns .brn 0x21#8 (fun _ => false) ∧
  BranchRuns .bcc 0x24#8 (fun s => !s.ccr.c) ∧ BranchRuns .bhs 0x24#8 (fun s => !s.ccr.c) ∧
  BranchRuns .bcs 0x25#8 (fun s => s.ccr.c) ∧ BranchRuns .blo 0x25#8 (fun s => s.ccr.c) ∧
  BranchRuns .bne 0x26#8 (fun s => !s.ccr.z) ∧ BranchRuns .beq 0x27#8 (fun s => s.ccr.z) ∧
  BranchRuns .bhcc 0x28#8 (fun s => !s.ccr.h) ∧ BranchRuns .bhcs 0x29#8 (fun s => s.ccr.h) ∧
  BranchRuns .bpl 0x2A#8 (fun s => !s.ccr.n) ∧ BranchRuns .bmi 0x2B#8 (fun s => s.ccr.n) ∧
  BranchRuns .bmc 0x2C#8 (fun s => !s.ccr.i) ∧ BranchRuns .bms 0x2D#8 (fun s => s.ccr.i)

/-- The branches on several flags: BLS on C | Z, BHI on its opposite, and the signed ones on Z and N xor V (R224, R225, R238 to R241; that the
target wraps modulo 2^16 is D1, log 20). -/
def Obligations.CompoundBranches : Prop :=
  BranchRuns .bhi 0x22#8 (fun s => !(s.ccr.c || s.ccr.z)) ∧ BranchRuns .bls 0x23#8 (fun s => s.ccr.c || s.ccr.z) ∧
  BranchRuns .bge 0x90#8 (fun s => !(s.ccr.n ^^ s.ccr.v)) ∧ BranchRuns .blt 0x91#8 (fun s => s.ccr.n ^^ s.ccr.v) ∧
  BranchRuns .bgt 0x92#8 (fun s => !(s.ccr.z || (s.ccr.n ^^ s.ccr.v))) ∧
  BranchRuns .ble 0x93#8 (fun s => s.ccr.z || (s.ccr.n ^^ s.ccr.v))

/-- BIL and BIH branch on the level of the IRQ pin at this sample, the free value `Config.irqPin` at the draw counter: low for BIL, high for
BIH. One draw is taken, no flag and no register plays a part, and nothing but pc changes (R221, R236, R237; the fresh sample is D11, log 8;
the modulus of the target D1, log 20). -/
def Obligations.IrqPinBranches : Prop :=
  ∀ rr s,
    exec (.bil rr) s = .next { s with pc := branchGoal (!Config.irqPin s.draws) rr s, draws := s.draws + 1 } ∧
    exec (.bih rr) s = .next { s with pc := branchGoal (Config.irqPin s.draws) rr s, draws := s.draws + 1 }

/-- Of a pair of complementary branches exactly one is taken, in every state (R242; BIL and BIH at one sample, log 8). A branch whose offset
is not zero shows by its target whether it is taken. -/
def Obligations.ComplementaryBranches : Prop :=
  ∀ (rr : Byte) (s : State), rr ≠ 0 →
    ∀ p ∈ [(Instr.bra, Instr.brn), (Instr.bhi, Instr.bls), (Instr.bcc, Instr.bcs), (Instr.bhs, Instr.blo), (Instr.bne, Instr.beq),
        (Instr.bhcc, Instr.bhcs), (Instr.bpl, Instr.bmi), (Instr.bmc, Instr.bms), (Instr.bil, Instr.bih), (Instr.bge, Instr.blt),
        (Instr.bgt, Instr.ble)],
      ∃ t u, exec (p.1 rr) s = .next t ∧ exec (p.2 rr) s = .next u ∧ t.pc ≠ u.pc ∧
        ((t.pc = branchGoal true rr s ∧ u.pc = branchGoal false rr s) ∨ (t.pc = branchGoal false rr s ∧ u.pc = branchGoal true rr s))

/-- After CMP, CPX, SUB or CPHX the unsigned branches decide the unsigned order of the values compared and the signed branches the signed
order (R224 to R229, R238 to R241 with R164, R184 to R186; it rests on the PRESUMED flag formulas, logs 13, 14, 17). -/
def Obligations.BranchesDecideComparisons : Prop :=
  (∀ o s, Operand8Ready o s → ∃ t, exec (.cmp o) s = .next t ∧
    DecidesOrder t (s.a.toNat < (operand8Value o s).toNat) (s.a = operand8Value o s) (s.a.toInt < (operand8Value o s).toInt)) ∧
  (∀ o s, Operand8Ready o s → ∃ t, exec (.sub o) s = .next t ∧
    DecidesOrder t (s.a.toNat < (operand8Value o s).toNat) (s.a = operand8Value o s) (s.a.toInt < (operand8Value o s).toInt)) ∧
  (∀ o s, Operand8Ready o s → ∃ t, exec (.cpx o) s = .next t ∧
    DecidesOrder t (s.x.toNat < (operand8Value o s).toNat) (s.x = operand8Value o s) (s.x.toInt < (operand8Value o s).toInt)) ∧
  (∀ o s, Operand16Ready o s → ∃ t, exec (.cphx o) s = .next t ∧
    DecidesOrder t (s.hx.toNat < (operand16Value o s).toNat) (s.hx = operand16Value o s)
      (s.hx.toInt < (operand16Value o s).toInt))

/-! ### TXS -/

/-- TXS, where it is accepted, gives SP the value of H:X minus one and changes no flag; where it is not, it is refused as an unlisted opcode
(47_referenced_untabled.md R260, 92_eei_decisions.md D8; the effect is PRESUMED, G11, log 32; State.reset does not accept it, the default of R6). -/
def Obligations.TxsMovesIndexToStackPointer : Prop :=
  (∀ s, s.params.acceptTxs = true →
    exec .txs s = .next { s with sp := BitVec.ofInt 16 (256 * (s.h.toNat : Int) + s.x.toNat - 1), pc := s.pc + 1 }) ∧
  (∀ s, s.params.acceptTxs = false → exec .txs s = .refused (.unspecifiedOpcode [0x94#8]))
end

