-- ==== Sys2Proof/Laws/Memory.lean ====
section
/-! SUPPORT. The laws of memory as data: what a write does to every byte, and that it keeps the canonical form. -/
namespace Sys2Proof.Machine

open Sys2Proof

@[simp] theorem Memory.read_nil (a : Nat) : Memory.read [] a = unlistedByte := rfl

theorem Memory.read_cons (k : Nat) (b : Byte) (t : Memory) (a : Nat) :
    Memory.read ((k, b) :: t) a = if k = a then b else Memory.read t a := rfl

/-- A write leaves every other byte alone, in any list. -/
theorem Memory.read_write_other (m : Memory) {a a' : Nat} (v : Byte) (h : a' ≠ a) : (m.write a v).read a' = m.read a' := by
  induction m with
  | nil => simp only [Memory.write]; split <;> simp [Memory.read, h.symm]
  | cons e t ih =>
    obtain ⟨k, b⟩ := e
    simp only [Memory.write]
    by_cases h1 : a < k
    · by_cases h2 : v = unlistedByte <;> simp [h1, h2, Memory.read, h.symm]
    · by_cases h3 : a = k
      · subst h3; by_cases h2 : v = unlistedByte <;> simp [h2, Memory.read, h.symm]
      · simp [h1, h3, Memory.read, ih]

/-- In a canonical list that starts at or above `lo`, an address below `lo` is unlisted. -/
theorem Memory.read_below {m : Memory} {lo a : Nat} (hw : Memory.wfFrom lo m) (h : a < lo) : m.read a = unlistedByte := by
  induction m generalizing lo with
  | nil => rfl
  | cons e t ih =>
    obtain ⟨k, b⟩ := e
    simp only [Memory.wfFrom, Bool.and_eq_true, decide_eq_true_eq] at hw
    rw [Memory.read_cons, if_neg (by omega)]
    exact ih hw.2 (by omega)

theorem Memory.read_write_same_from {m : Memory} {lo a : Nat} (v : Byte) (hw : Memory.wfFrom lo m) :
    (m.write a v).read a = v := by
  induction m generalizing lo with
  | nil => simp only [Memory.write]; split <;> simp_all [Memory.read]
  | cons e t ih =>
    obtain ⟨k, b⟩ := e
    simp only [Memory.wfFrom, Bool.and_eq_true, decide_eq_true_eq] at hw
    obtain ⟨⟨⟨-, -⟩, -⟩, ht⟩ := hw
    simp only [Memory.write]
    by_cases h1 : a < k
    · by_cases h2 : v = unlistedByte
      · subst h2
        have hne : ¬ k = a := by omega
        simp [h1, Memory.read, hne, Memory.read_below ht (by omega : a < k + 1)]
      · simp [h1, h2, Memory.read]
    · by_cases h3 : a = k
      · subst h3
        by_cases h2 : v = unlistedByte
        · subst h2; simp [Memory.read_below ht (Nat.lt_succ_self a)]
        · simp [h2, Memory.read]
      · simp [h1, h3, Memory.read, Ne.symm h3, ih ht]

/-- A read after a write to the same address gives the byte written, in a canonical memory. -/
theorem Memory.read_write_same {m : Memory} (a : Nat) (v : Byte) (hw : m.wf) : (m.write a v).read a = v :=
  Memory.read_write_same_from v hw

theorem Memory.wfFrom_mono {m : Memory} {lo lo' : Nat} (h : lo' ≤ lo) (hw : Memory.wfFrom lo m) : Memory.wfFrom lo' m := by
  cases m with
  | nil => rfl
  | cons e t =>
    obtain ⟨k, b⟩ := e
    simp only [Memory.wfFrom, Bool.and_eq_true, decide_eq_true_eq] at hw ⊢
    exact ⟨⟨⟨by omega, hw.1.1.2⟩, hw.1.2⟩, hw.2⟩

theorem Memory.wfFrom_write {m : Memory} {lo a : Nat} (v : Byte) (hlo : lo ≤ a) (ha : a < 65536) (hw : Memory.wfFrom lo m) :
    Memory.wfFrom lo (m.write a v) := by
  induction m generalizing lo with
  | nil => simp only [Memory.write]; split <;> simp_all [Memory.wfFrom]
  | cons e t ih =>
    obtain ⟨k, b⟩ := e
    have hall := hw
    simp only [Memory.wfFrom, Bool.and_eq_true, decide_eq_true_eq] at hw
    obtain ⟨⟨⟨h1, h2⟩, h3⟩, ht⟩ := hw
    simp only [Memory.write]
    by_cases hlt : a < k
    · by_cases hv : v = unlistedByte
      · simpa [hlt, hv] using hall
      · simp only [hlt, hv, if_true, if_false, Memory.wfFrom, Bool.and_eq_true, decide_eq_true_eq]
        exact ⟨⟨⟨hlo, ha⟩, hv⟩, ⟨⟨by omega, h2⟩, h3⟩, ht⟩
    · by_cases heq : a = k
      · subst heq
        by_cases hv : v = unlistedByte
        · simpa [hv] using Memory.wfFrom_mono (by omega) ht
        · simp only [hv, Nat.lt_irrefl, if_true, if_false, Memory.wfFrom, Bool.and_eq_true, decide_eq_true_eq]
          exact ⟨⟨⟨hlo, ha⟩, hv⟩, ht⟩
      · simp only [hlt, heq, if_false, Memory.wfFrom, Bool.and_eq_true, decide_eq_true_eq]
        exact ⟨⟨⟨h1, h2⟩, h3⟩, ih (by omega) ht⟩

/-- The one operation that changes memory keeps the canonical form. -/
theorem Memory.wf_write {m : Memory} {a : Nat} (v : Byte) (ha : a < 65536) (hw : m.wf) : (m.write a v).wf :=
  Memory.wfFrom_write v (Nat.zero_le a) ha hw

end Sys2Proof.Machine
end

