-- ==== Sys2Proof/Laws/State.lean ====
section
/-! SUPPORT. One lemma per field per update of the state, and the accessors through each update. -/
namespace Sys2Proof.Machine

open Sys2Proof

variable (s : State)

@[simp] theorem State.resetWith_a (m : Memory) (p : Params) : (State.resetWith m p).a = 0x00#8 := rfl
@[simp] theorem State.resetWith_x (m : Memory) (p : Params) : (State.resetWith m p).x = 0x00#8 := rfl
@[simp] theorem State.resetWith_h (m : Memory) (p : Params) : (State.resetWith m p).h = 0x00#8 := rfl
@[simp] theorem State.resetWith_sp (m : Memory) (p : Params) : (State.resetWith m p).sp = 0x00FF#16 := rfl
@[simp] theorem State.resetWith_pc (m : Memory) (p : Params) : (State.resetWith m p).pc = m.resetVector := rfl
@[simp] theorem State.resetWith_mem (m : Memory) (p : Params) : (State.resetWith m p).mem = m := rfl
@[simp] theorem State.resetWith_ioLog (m : Memory) (p : Params) : (State.resetWith m p).ioLog = [] := rfl
@[simp] theorem State.resetWith_params (m : Memory) (p : Params) : (State.resetWith m p).params = p := rfl
@[simp] theorem State.resetWith_draws (m : Memory) (p : Params) : (State.resetWith m p).draws = 0 := rfl
@[simp] theorem State.resetWith_ccr (m : Memory) (p : Params) : (State.resetWith m p).ccr = ⟨false, false, true, false, false, false⟩ := rfl
@[simp] theorem State.resetWith_byteAt (m : Memory) (p : Params) (a : Addr) : (State.resetWith m p).byteAt a = m.read a.toNat := rfl

@[simp] theorem State.withA_a (v : Byte) : (s.withA v).a = v := rfl
@[simp] theorem State.withA_x (v : Byte) : (s.withA v).x = s.x := rfl
@[simp] theorem State.withA_h (v : Byte) : (s.withA v).h = s.h := rfl
@[simp] theorem State.withA_sp (v : Byte) : (s.withA v).sp = s.sp := rfl
@[simp] theorem State.withA_pc (v : Byte) : (s.withA v).pc = s.pc := rfl
@[simp] theorem State.withA_ccr (v : Byte) : (s.withA v).ccr = s.ccr := rfl
@[simp] theorem State.withA_mem (v : Byte) : (s.withA v).mem = s.mem := rfl
@[simp] theorem State.withA_ioLog (v : Byte) : (s.withA v).ioLog = s.ioLog := rfl
@[simp] theorem State.withA_params (v : Byte) : (s.withA v).params = s.params := rfl
@[simp] theorem State.withA_draws (v : Byte) : (s.withA v).draws = s.draws := rfl
@[simp] theorem State.withA_region (v : Byte) (a : Addr) : (s.withA v).region a = s.region a := rfl
@[simp] theorem State.withA_inProgramText (v : Byte) (a : Addr) : (s.withA v).inProgramText a = s.inProgramText a := rfl
@[simp] theorem State.withA_byteAt (v : Byte) (a : Addr) : (s.withA v).byteAt a = s.byteAt a := rfl
@[simp] theorem State.withA_hx (v : Byte) : (s.withA v).hx = s.hx := rfl

@[simp] theorem State.withX_a (v : Byte) : (s.withX v).a = s.a := rfl
@[simp] theorem State.withX_x (v : Byte) : (s.withX v).x = v := rfl
@[simp] theorem State.withX_h (v : Byte) : (s.withX v).h = s.h := rfl
@[simp] theorem State.withX_sp (v : Byte) : (s.withX v).sp = s.sp := rfl
@[simp] theorem State.withX_pc (v : Byte) : (s.withX v).pc = s.pc := rfl
@[simp] theorem State.withX_ccr (v : Byte) : (s.withX v).ccr = s.ccr := rfl
@[simp] theorem State.withX_mem (v : Byte) : (s.withX v).mem = s.mem := rfl
@[simp] theorem State.withX_ioLog (v : Byte) : (s.withX v).ioLog = s.ioLog := rfl
@[simp] theorem State.withX_params (v : Byte) : (s.withX v).params = s.params := rfl
@[simp] theorem State.withX_draws (v : Byte) : (s.withX v).draws = s.draws := rfl
@[simp] theorem State.withX_region (v : Byte) (a : Addr) : (s.withX v).region a = s.region a := rfl
@[simp] theorem State.withX_inProgramText (v : Byte) (a : Addr) : (s.withX v).inProgramText a = s.inProgramText a := rfl
@[simp] theorem State.withX_byteAt (v : Byte) (a : Addr) : (s.withX v).byteAt a = s.byteAt a := rfl

@[simp] theorem State.withH_a (v : Byte) : (s.withH v).a = s.a := rfl
@[simp] theorem State.withH_x (v : Byte) : (s.withH v).x = s.x := rfl
@[simp] theorem State.withH_h (v : Byte) : (s.withH v).h = v := rfl
@[simp] theorem State.withH_sp (v : Byte) : (s.withH v).sp = s.sp := rfl
@[simp] theorem State.withH_pc (v : Byte) : (s.withH v).pc = s.pc := rfl
@[simp] theorem State.withH_ccr (v : Byte) : (s.withH v).ccr = s.ccr := rfl
@[simp] theorem State.withH_mem (v : Byte) : (s.withH v).mem = s.mem := rfl
@[simp] theorem State.withH_ioLog (v : Byte) : (s.withH v).ioLog = s.ioLog := rfl
@[simp] theorem State.withH_params (v : Byte) : (s.withH v).params = s.params := rfl
@[simp] theorem State.withH_draws (v : Byte) : (s.withH v).draws = s.draws := rfl
@[simp] theorem State.withH_region (v : Byte) (a : Addr) : (s.withH v).region a = s.region a := rfl
@[simp] theorem State.withH_inProgramText (v : Byte) (a : Addr) : (s.withH v).inProgramText a = s.inProgramText a := rfl
@[simp] theorem State.withH_byteAt (v : Byte) (a : Addr) : (s.withH v).byteAt a = s.byteAt a := rfl

@[simp] theorem State.withHX_a (v : Addr) : (s.withHX v).a = s.a := rfl
@[simp] theorem State.withHX_x (v : Addr) : (s.withHX v).x = loByte v := rfl
@[simp] theorem State.withHX_h (v : Addr) : (s.withHX v).h = hiByte v := rfl
@[simp] theorem State.withHX_sp (v : Addr) : (s.withHX v).sp = s.sp := rfl
@[simp] theorem State.withHX_pc (v : Addr) : (s.withHX v).pc = s.pc := rfl
@[simp] theorem State.withHX_ccr (v : Addr) : (s.withHX v).ccr = s.ccr := rfl
@[simp] theorem State.withHX_mem (v : Addr) : (s.withHX v).mem = s.mem := rfl
@[simp] theorem State.withHX_ioLog (v : Addr) : (s.withHX v).ioLog = s.ioLog := rfl
@[simp] theorem State.withHX_params (v : Addr) : (s.withHX v).params = s.params := rfl
@[simp] theorem State.withHX_draws (v : Addr) : (s.withHX v).draws = s.draws := rfl
@[simp] theorem State.withHX_region (v : Addr) (a : Addr) : (s.withHX v).region a = s.region a := rfl
@[simp] theorem State.withHX_inProgramText (v : Addr) (a : Addr) : (s.withHX v).inProgramText a = s.inProgramText a := rfl
@[simp] theorem State.withHX_byteAt (v : Addr) (a : Addr) : (s.withHX v).byteAt a = s.byteAt a := rfl

@[simp] theorem State.withSP_a (v : Addr) : (s.withSP v).a = s.a := rfl
@[simp] theorem State.withSP_x (v : Addr) : (s.withSP v).x = s.x := rfl
@[simp] theorem State.withSP_h (v : Addr) : (s.withSP v).h = s.h := rfl
@[simp] theorem State.withSP_sp (v : Addr) : (s.withSP v).sp = v := rfl
@[simp] theorem State.withSP_pc (v : Addr) : (s.withSP v).pc = s.pc := rfl
@[simp] theorem State.withSP_ccr (v : Addr) : (s.withSP v).ccr = s.ccr := rfl
@[simp] theorem State.withSP_mem (v : Addr) : (s.withSP v).mem = s.mem := rfl
@[simp] theorem State.withSP_ioLog (v : Addr) : (s.withSP v).ioLog = s.ioLog := rfl
@[simp] theorem State.withSP_params (v : Addr) : (s.withSP v).params = s.params := rfl
@[simp] theorem State.withSP_draws (v : Addr) : (s.withSP v).draws = s.draws := rfl
@[simp] theorem State.withSP_region (v : Addr) (a : Addr) : (s.withSP v).region a = s.region a := rfl
@[simp] theorem State.withSP_inProgramText (v : Addr) (a : Addr) : (s.withSP v).inProgramText a = s.inProgramText a := rfl
@[simp] theorem State.withSP_byteAt (v : Addr) (a : Addr) : (s.withSP v).byteAt a = s.byteAt a := rfl
@[simp] theorem State.withSP_hx (v : Addr) : (s.withSP v).hx = s.hx := rfl

@[simp] theorem State.withPC_a (v : Addr) : (s.withPC v).a = s.a := rfl
@[simp] theorem State.withPC_x (v : Addr) : (s.withPC v).x = s.x := rfl
@[simp] theorem State.withPC_h (v : Addr) : (s.withPC v).h = s.h := rfl
@[simp] theorem State.withPC_sp (v : Addr) : (s.withPC v).sp = s.sp := rfl
@[simp] theorem State.withPC_pc (v : Addr) : (s.withPC v).pc = v := rfl
@[simp] theorem State.withPC_ccr (v : Addr) : (s.withPC v).ccr = s.ccr := rfl
@[simp] theorem State.withPC_mem (v : Addr) : (s.withPC v).mem = s.mem := rfl
@[simp] theorem State.withPC_ioLog (v : Addr) : (s.withPC v).ioLog = s.ioLog := rfl
@[simp] theorem State.withPC_params (v : Addr) : (s.withPC v).params = s.params := rfl
@[simp] theorem State.withPC_draws (v : Addr) : (s.withPC v).draws = s.draws := rfl
@[simp] theorem State.withPC_region (v : Addr) (a : Addr) : (s.withPC v).region a = s.region a := rfl
@[simp] theorem State.withPC_inProgramText (v : Addr) (a : Addr) : (s.withPC v).inProgramText a = s.inProgramText a := rfl
@[simp] theorem State.withPC_byteAt (v : Addr) (a : Addr) : (s.withPC v).byteAt a = s.byteAt a := rfl
@[simp] theorem State.withPC_hx (v : Addr) : (s.withPC v).hx = s.hx := rfl

@[simp] theorem State.withCcr_a (f : Ccr) : (s.withCcr f).a = s.a := rfl
@[simp] theorem State.withCcr_x (f : Ccr) : (s.withCcr f).x = s.x := rfl
@[simp] theorem State.withCcr_h (f : Ccr) : (s.withCcr f).h = s.h := rfl
@[simp] theorem State.withCcr_sp (f : Ccr) : (s.withCcr f).sp = s.sp := rfl
@[simp] theorem State.withCcr_pc (f : Ccr) : (s.withCcr f).pc = s.pc := rfl
@[simp] theorem State.withCcr_ccr (f : Ccr) : (s.withCcr f).ccr = f := rfl
@[simp] theorem State.withCcr_mem (f : Ccr) : (s.withCcr f).mem = s.mem := rfl
@[simp] theorem State.withCcr_ioLog (f : Ccr) : (s.withCcr f).ioLog = s.ioLog := rfl
@[simp] theorem State.withCcr_params (f : Ccr) : (s.withCcr f).params = s.params := rfl
@[simp] theorem State.withCcr_draws (f : Ccr) : (s.withCcr f).draws = s.draws := rfl
@[simp] theorem State.withCcr_region (f : Ccr) (a : Addr) : (s.withCcr f).region a = s.region a := rfl
@[simp] theorem State.withCcr_inProgramText (f : Ccr) (a : Addr) : (s.withCcr f).inProgramText a = s.inProgramText a := rfl
@[simp] theorem State.withCcr_byteAt (f : Ccr) (a : Addr) : (s.withCcr f).byteAt a = s.byteAt a := rfl
@[simp] theorem State.withCcr_hx (f : Ccr) : (s.withCcr f).hx = s.hx := rfl

@[simp] theorem State.withMem_a (m : Memory) : (s.withMem m).a = s.a := rfl
@[simp] theorem State.withMem_x (m : Memory) : (s.withMem m).x = s.x := rfl
@[simp] theorem State.withMem_h (m : Memory) : (s.withMem m).h = s.h := rfl
@[simp] theorem State.withMem_sp (m : Memory) : (s.withMem m).sp = s.sp := rfl
@[simp] theorem State.withMem_pc (m : Memory) : (s.withMem m).pc = s.pc := rfl
@[simp] theorem State.withMem_ccr (m : Memory) : (s.withMem m).ccr = s.ccr := rfl
@[simp] theorem State.withMem_mem (m : Memory) : (s.withMem m).mem = m := rfl
@[simp] theorem State.withMem_ioLog (m : Memory) : (s.withMem m).ioLog = s.ioLog := rfl
@[simp] theorem State.withMem_params (m : Memory) : (s.withMem m).params = s.params := rfl
@[simp] theorem State.withMem_draws (m : Memory) : (s.withMem m).draws = s.draws := rfl
@[simp] theorem State.withMem_region (m : Memory) (a : Addr) : (s.withMem m).region a = s.region a := rfl
@[simp] theorem State.withMem_inProgramText (m : Memory) (a : Addr) : (s.withMem m).inProgramText a = s.inProgramText a := rfl
@[simp] theorem State.withMem_hx (m : Memory) : (s.withMem m).hx = s.hx := rfl

@[simp] theorem State.logIo_a (e : IoEvent) : (s.logIo e).a = s.a := rfl
@[simp] theorem State.logIo_x (e : IoEvent) : (s.logIo e).x = s.x := rfl
@[simp] theorem State.logIo_h (e : IoEvent) : (s.logIo e).h = s.h := rfl
@[simp] theorem State.logIo_sp (e : IoEvent) : (s.logIo e).sp = s.sp := rfl
@[simp] theorem State.logIo_pc (e : IoEvent) : (s.logIo e).pc = s.pc := rfl
@[simp] theorem State.logIo_ccr (e : IoEvent) : (s.logIo e).ccr = s.ccr := rfl
@[simp] theorem State.logIo_mem (e : IoEvent) : (s.logIo e).mem = s.mem := rfl
@[simp] theorem State.logIo_ioLog (e : IoEvent) : (s.logIo e).ioLog = e :: s.ioLog := rfl
@[simp] theorem State.logIo_params (e : IoEvent) : (s.logIo e).params = s.params := rfl
@[simp] theorem State.logIo_draws (e : IoEvent) : (s.logIo e).draws = s.draws := rfl
@[simp] theorem State.logIo_region (e : IoEvent) (a : Addr) : (s.logIo e).region a = s.region a := rfl
@[simp] theorem State.logIo_inProgramText (e : IoEvent) (a : Addr) : (s.logIo e).inProgramText a = s.inProgramText a := rfl
@[simp] theorem State.logIo_byteAt (e : IoEvent) (a : Addr) : (s.logIo e).byteAt a = s.byteAt a := rfl
@[simp] theorem State.logIo_hx (e : IoEvent) : (s.logIo e).hx = s.hx := rfl

@[simp] theorem State.drawn_a : s.drawn.a = s.a := rfl
@[simp] theorem State.drawn_x : s.drawn.x = s.x := rfl
@[simp] theorem State.drawn_h : s.drawn.h = s.h := rfl
@[simp] theorem State.drawn_sp : s.drawn.sp = s.sp := rfl
@[simp] theorem State.drawn_pc : s.drawn.pc = s.pc := rfl
@[simp] theorem State.drawn_ccr : s.drawn.ccr = s.ccr := rfl
@[simp] theorem State.drawn_mem : s.drawn.mem = s.mem := rfl
@[simp] theorem State.drawn_ioLog : s.drawn.ioLog = s.ioLog := rfl
@[simp] theorem State.drawn_params : s.drawn.params = s.params := rfl
@[simp] theorem State.drawn_draws : s.drawn.draws = s.draws + 1 := rfl
@[simp] theorem State.drawn_region (a : Addr) : s.drawn.region a = s.region a := rfl
@[simp] theorem State.drawn_inProgramText (a : Addr) : s.drawn.inProgramText a = s.inProgramText a := rfl
@[simp] theorem State.drawn_byteAt (a : Addr) : s.drawn.byteAt a = s.byteAt a := rfl
@[simp] theorem State.drawn_hx : s.drawn.hx = s.hx := rfl

end Sys2Proof.Machine
end

