-- ==== Sys2Proof/Laws/Access.lean ====
section
/-! SUPPORT. What the shared operations can do, said once: the sequencing of results, reads, writes, effective addresses. -/
namespace Sys2Proof.Machine

open Sys2Proof

variable {α β : Type}

@[simp] theorem andThen_next (x : α) (f : α → Result β) : andThen (.next x) f = f x := rfl
@[simp] theorem andThen_fault (e : Fault) (f : α → Result β) : andThen (.fault e) f = .fault e := rfl
@[simp] theorem andThen_refused (e : Refusal) (f : α → Result β) : andThen (.refused e) f = .refused e := rfl

/-- A sequence answers a value exactly when both parts do. -/
theorem andThen_eq_next {r : Result α} {f : α → Result β} {y : β} : andThen r f = .next y ↔ ∃ x, r = .next x ∧ f x = .next y := by
  cases r <;> simp [andThen]

/-- The region of an address depends on the parameters only. -/
theorem region_congr {s s' : State} (h : s'.params = s.params) (a : Addr) : s'.region a = s.region a := by
  simp only [State.region, h]

/-- Whether a store is refused depends on the parameters only. -/
theorem storeRefusal_congr {s s' : State} (h : s'.params = s.params) (a : Addr) : storeRefusal a s' = storeRefusal a s := by
  cases s; cases s'; cases h; rfl

/-- Whether an offset is refused depends on the parameters only. -/
theorem modeRefusal_congr {s s' : State} (h : s'.params = s.params) (m : Mode) : modeRefusal m s' = modeRefusal m s := by
  cases m <;> simp only [modeRefusal, h]

/-! ### Reads -/

@[simp] theorem afterLoad_a (a : Addr) (s : State) : (afterLoad a s).a = s.a := by unfold afterLoad; split <;> rfl
@[simp] theorem afterLoad_x (a : Addr) (s : State) : (afterLoad a s).x = s.x := by unfold afterLoad; split <;> rfl
@[simp] theorem afterLoad_h (a : Addr) (s : State) : (afterLoad a s).h = s.h := by unfold afterLoad; split <;> rfl
@[simp] theorem afterLoad_sp (a : Addr) (s : State) : (afterLoad a s).sp = s.sp := by unfold afterLoad; split <;> rfl
@[simp] theorem afterLoad_pc (a : Addr) (s : State) : (afterLoad a s).pc = s.pc := by unfold afterLoad; split <;> rfl
@[simp] theorem afterLoad_ccr (a : Addr) (s : State) : (afterLoad a s).ccr = s.ccr := by unfold afterLoad; split <;> rfl
@[simp] theorem afterLoad_mem (a : Addr) (s : State) : (afterLoad a s).mem = s.mem := by unfold afterLoad; split <;> rfl
@[simp] theorem afterLoad_params (a : Addr) (s : State) : (afterLoad a s).params = s.params := by unfold afterLoad; split <;> rfl
@[simp] theorem afterLoad_hx (a : Addr) (s : State) : (afterLoad a s).hx = s.hx := by unfold afterLoad; split <;> rfl
@[simp] theorem afterLoad_region (a b : Addr) (s : State) : (afterLoad a s).region b = s.region b := by simp [State.region]
@[simp] theorem afterLoad_byteAt (a b : Addr) (s : State) : (afterLoad a s).byteAt b = s.byteAt b := by simp [State.byteAt]
@[simp] theorem afterLoad_storeRefusal (a b : Addr) (s : State) : storeRefusal b (afterLoad a s) = storeRefusal b s :=
  storeRefusal_congr (afterLoad_params a s) b

/-- A read of a location that is not IO changes nothing. -/
theorem afterLoad_plain {a : Addr} {s : State} (h : s.region a ≠ .io) : afterLoad a s = s := if_neg h

/-- A read of a location that is not IO gives the byte that memory holds. -/
theorem loadValue_plain {a : Addr} {s : State} (h : s.region a ≠ .io) : loadValue a s = s.byteAt a := if_neg h

/-- `MemRead` answers exactly where something stands. -/
theorem memRead_eq_next {a : Addr} {s : State} {p : Byte × State} :
    memRead a s = .next p ↔ s.region a ≠ .none ∧ p = (loadValue a s, afterLoad a s) := by
  unfold memRead
  split <;> simp_all [eq_comm]

theorem memRead_mapped {a : Addr} {s : State} (h : s.region a ≠ .none) : memRead a s = .next (loadValue a s, afterLoad a s) := if_neg h

/-! ### Writes -/

@[simp] theorem afterStore_a (a : Addr) (v : Byte) (s : State) : (afterStore a v s).a = s.a := by unfold afterStore; split <;> rfl
@[simp] theorem afterStore_x (a : Addr) (v : Byte) (s : State) : (afterStore a v s).x = s.x := by unfold afterStore; split <;> rfl
@[simp] theorem afterStore_h (a : Addr) (v : Byte) (s : State) : (afterStore a v s).h = s.h := by unfold afterStore; split <;> rfl
@[simp] theorem afterStore_sp (a : Addr) (v : Byte) (s : State) : (afterStore a v s).sp = s.sp := by unfold afterStore; split <;> rfl
@[simp] theorem afterStore_pc (a : Addr) (v : Byte) (s : State) : (afterStore a v s).pc = s.pc := by unfold afterStore; split <;> rfl
@[simp] theorem afterStore_ccr (a : Addr) (v : Byte) (s : State) : (afterStore a v s).ccr = s.ccr := by unfold afterStore; split <;> rfl
@[simp] theorem afterStore_params (a : Addr) (v : Byte) (s : State) : (afterStore a v s).params = s.params := by
  unfold afterStore; split <;> rfl
@[simp] theorem afterStore_draws (a : Addr) (v : Byte) (s : State) : (afterStore a v s).draws = s.draws := by
  unfold afterStore; split <;> rfl
@[simp] theorem afterStore_hx (a : Addr) (v : Byte) (s : State) : (afterStore a v s).hx = s.hx := by unfold afterStore; split <;> rfl
@[simp] theorem afterStore_region (a b : Addr) (v : Byte) (s : State) : (afterStore a v s).region b = s.region b := by
  simp [State.region]
@[simp] theorem afterStore_storeRefusal (a b : Addr) (v : Byte) (s : State) :
    storeRefusal b (afterStore a v s) = storeRefusal b s :=
  storeRefusal_congr (afterStore_params a v s) b

/-- A write changes no byte but the one at its address. -/
theorem afterStore_byteAt_other {a b : Addr} (v : Byte) (s : State) (h : b ≠ a) : (afterStore a v s).byteAt b = s.byteAt b := by
  have hn : b.toNat ≠ a.toNat := fun e => h (BitVec.eq_of_toNat_eq e)
  unfold afterStore
  split <;> simp [State.byteAt, Memory.read_write_other _ v hn]

/-- A write keeps the canonical form of memory. -/
theorem afterStore_mem_wf (a : Addr) (v : Byte) (s : State) (h : s.mem.wf) : (afterStore a v s).mem.wf := by
  unfold afterStore
  split
  · exact Memory.wf_write v a.isLt h
  · exact h
  · exact h
  · exact h

/-- `MemWrite` answers exactly where nothing refuses it. -/
theorem memWrite_eq_next {a : Addr} {v : Byte} {s t : State} :
    memWrite a v s = .next t ↔ storeRefusal a s = none ∧ t = afterStore a v s := by
  cases h : storeRefusal a s <;> simp [memWrite, h, eq_comm]

theorem memWrite_ready {a : Addr} {v : Byte} {s : State} (h : storeRefusal a s = none) : memWrite a v s = .next (afterStore a v s) := by
  simp [memWrite, h]

/-- A location that can be stored to is mapped, and outside the program text. -/
theorem mapped_of_storable {a : Addr} {s : State} (h : storeRefusal a s = none) : s.region a ≠ .none ∧ s.inProgramText a = false := by
  unfold storeRefusal at h
  split at h
  · exact absurd h (by simp)
  · split at h
    · exact absurd h (by simp)
    · simp_all

/-! ### Effective addresses -/

/-- The effective address is answered exactly when its offset is not refused. -/
theorem effAddr_eq_next {m : Mode} {s : State} {a : Addr} : effAddr m s = .next a ↔ modeRefusal m s = none ∧ a = modeAddr m s := by
  cases h : modeRefusal m s <;> simp [effAddr, h, eq_comm]

theorem effAddr_ready {m : Mode} {s : State} (h : modeRefusal m s = none) : effAddr m s = .next (modeAddr m s) := by
  simp [effAddr, h]

/-! ### Flags with `cautious_flags` -/

@[simp] theorem cautiousC_params (s : State) : (cautiousC s).params = s.params := by unfold cautiousC; split <;> rfl
@[simp] theorem cautiousC_mem (s : State) : (cautiousC s).mem = s.mem := by unfold cautiousC; split <;> rfl
@[simp] theorem cautiousV_params (s : State) : (cautiousV s).params = s.params := by unfold cautiousV; split <;> rfl
@[simp] theorem cautiousV_mem (s : State) : (cautiousV s).mem = s.mem := by unfold cautiousV; split <;> rfl

end Sys2Proof.Machine
end

