-- ==== Sys2Proof/Laws/Operands.lean ====
section
/-! SUPPORT. The operand forms: what reading one gives when it can be read, and every way a shared pattern can answer. -/
namespace Sys2Proof.Machine

open Sys2Proof

/-- An 8-bit operand is answered exactly when it is ready. -/
theorem readOperand8_eq_next {o : Operand8} {s : State} {p : Byte × State} :
    readOperand8 o s = .next p ↔ Operand8Ready o s ∧ p = (operand8Value o s, operand8After o s) := by
  cases o with
  | imm ii => simp [readOperand8, Operand8Ready, operand8Value, operand8After, eq_comm]
  | mem m =>
    simp only [readOperand8, andThen_eq_next, effAddr_eq_next, Operand8Ready, ModeReady, operand8Value, operand8After]
    constructor
    · rintro ⟨a, ⟨h1, rfl⟩, h2⟩
      obtain ⟨h3, h4⟩ := memRead_eq_next.mp h2
      exact ⟨⟨h1, h3⟩, h4⟩
    · rintro ⟨⟨h1, h3⟩, h4⟩
      exact ⟨_, ⟨h1, rfl⟩, memRead_eq_next.mpr ⟨h3, h4⟩⟩

theorem readOperand8_ready {o : Operand8} {s : State} (h : Operand8Ready o s) :
    readOperand8 o s = .next (operand8Value o s, operand8After o s) :=
  readOperand8_eq_next.mpr ⟨h, rfl⟩

/-- A 16-bit operand that is ready is answered. -/
theorem readOperand16_ready {o : Operand16} {s : State} (h : Operand16Ready o s) :
    readOperand16 o s = .next (operand16Value o s, operand16After o s) := by
  cases o with
  | imm jjkk => rfl
  | mem m =>
    obtain ⟨⟨h1, h2⟩, h3⟩ := h
    have h4 := memRead_mapped (s := afterLoad (modeAddr m s) s) (a := modeAddr m s + 1) (by simpa using h3)
    simp only [readOperand16, effAddr_ready h1, memRead16, memRead_mapped h2, h4, andThen_next, operand16Value, operand16After]

/-- A 16-bit operand is answered exactly when it is ready. -/
theorem readOperand16_eq_next {o : Operand16} {s : State} {p : Addr × State} :
    readOperand16 o s = .next p ↔ Operand16Ready o s ∧ p = (operand16Value o s, operand16After o s) := by
  constructor
  · intro h
    suffices hr : Operand16Ready o s from ⟨hr, by simpa [readOperand16_ready hr, eq_comm] using h⟩
    cases o with
    | imm jjkk => trivial
    | mem m =>
      obtain ⟨a, ha, hm⟩ := andThen_eq_next.mp h
      obtain ⟨h1, rfl⟩ := effAddr_eq_next.mp ha
      obtain ⟨p1, hp1, h2⟩ := andThen_eq_next.mp hm
      obtain ⟨h3, rfl⟩ := memRead_eq_next.mp hp1
      obtain ⟨p2, hp2, -⟩ := andThen_eq_next.mp h2
      obtain ⟨h4, -⟩ := memRead_eq_next.mp hp2
      exact ⟨⟨h1, h3⟩, by simpa using h4⟩
  · rintro ⟨h, rfl⟩
    exact readOperand16_ready h

/-- Every next state of an instruction that only reads an 8-bit operand. -/
theorem withOperand8_eq_next {o : Operand8} {f : Byte → State → State} {i : Instr} {s t : State} :
    withOperand8 o f i s = .next t ↔
      Operand8Ready o s ∧
        t = (f (operand8Value o s) (operand8After o s)).withPC (nextAddr i (f (operand8Value o s) (operand8After o s))) := by
  simp only [withOperand8, andThen_eq_next, readOperand8_eq_next, finish]
  constructor
  · rintro ⟨p, ⟨h, rfl⟩, h2⟩; exact ⟨h, by simpa [eq_comm] using h2⟩
  · rintro ⟨h, rfl⟩; exact ⟨_, ⟨h, rfl⟩, rfl⟩

/-- Every next state of an instruction that only reads a 16-bit operand. -/
theorem withOperand16_eq_next {o : Operand16} {f : Addr → State → State} {i : Instr} {s t : State} :
    withOperand16 o f i s = .next t ↔
      Operand16Ready o s ∧
        t = (f (operand16Value o s) (operand16After o s)).withPC (nextAddr i (f (operand16Value o s) (operand16After o s))) := by
  simp only [withOperand16, andThen_eq_next, readOperand16_eq_next, finish]
  constructor
  · rintro ⟨p, ⟨h, rfl⟩, h2⟩; exact ⟨h, by simpa [eq_comm] using h2⟩
  · rintro ⟨h, rfl⟩; exact ⟨_, ⟨h, rfl⟩, rfl⟩

/-- Every next state of the memory form of a read-modify-write instruction whose operation leaves the parameters alone: the location can
be read and stored to; it is read, the operation runs, it is written. -/
theorem rmwMem_eq_next {op : UnaryOp} (hop : ∀ b u, (op b u).2.params = u.params) {m : Mode} {i : Instr} {s t : State} :
    rmwMem op m i s = .next t ↔
      StoreReady m s ∧
        t = ((afterStore (modeAddr m s) (op (loadValue (modeAddr m s) s) (afterLoad (modeAddr m s) s)).1
              (op (loadValue (modeAddr m s) s) (afterLoad (modeAddr m s) s)).2)).withPC
            (nextAddr i (op (loadValue (modeAddr m s) s) (afterLoad (modeAddr m s) s)).2) := by
  have hst : ∀ a b u, storeRefusal a (op b u).2 = storeRefusal a u := fun a b u =>
    storeRefusal_congr (hop b u) a
  simp only [rmwMem, andThen_eq_next, effAddr_eq_next, finish]
  constructor
  · rintro ⟨a, ⟨h1, rfl⟩, p, h2, u, h3, h4⟩
    obtain ⟨-, rfl⟩ := memRead_eq_next.mp h2
    obtain ⟨h5, rfl⟩ := memWrite_eq_next.mp h3
    exact ⟨⟨h1, by simpa [hst] using h5⟩, by simpa [nextAddr, eq_comm] using h4⟩
  · rintro ⟨⟨h1, h2⟩, rfl⟩
    exact ⟨_, ⟨h1, rfl⟩, _, memRead_mapped (mapped_of_storable h2).1, _, memWrite_ready (by simpa [hst] using h2),
      by simp [nextAddr]⟩

/-- A byte store through a mode answers exactly when it is ready. -/
theorem storeMode_eq_next {m : Mode} {v : Byte} {s t : State} :
    storeMode m v s = .next t ↔ StoreReady m s ∧ t = afterStore (modeAddr m s) v s := by
  simp only [storeMode, andThen_eq_next, effAddr_eq_next]
  constructor
  · rintro ⟨a, ⟨h1, rfl⟩, h2⟩
    obtain ⟨h3, rfl⟩ := memWrite_eq_next.mp h2
    exact ⟨⟨h1, h3⟩, rfl⟩
  · rintro ⟨⟨h1, h2⟩, rfl⟩
    exact ⟨_, ⟨h1, rfl⟩, memWrite_ready h2⟩

/-- A two-byte store through a mode answers exactly when both bytes can be stored; the high byte goes first. -/
theorem storeMode16_eq_next {m : Mode} {v : Addr} {s t : State} :
    storeMode16 m v s = .next t ↔
      Store16Ready m s ∧ t = afterStore (modeAddr m s + 1) (loByte v) (afterStore (modeAddr m s) (hiByte v) s) := by
  simp only [storeMode16, memWrite16, andThen_eq_next, effAddr_eq_next]
  constructor
  · rintro ⟨a, ⟨h1, rfl⟩, u, h2, h3⟩
    obtain ⟨h4, rfl⟩ := memWrite_eq_next.mp h2
    obtain ⟨h5, rfl⟩ := memWrite_eq_next.mp h3
    exact ⟨⟨h1, h4, by simpa using h5⟩, rfl⟩
  · rintro ⟨⟨h1, h2, h3⟩, rfl⟩
    exact ⟨_, ⟨h1, rfl⟩, _, memWrite_ready h2, memWrite_ready (by simpa using h3)⟩

/-- C with `cautious_flags`: the flag kept, or one free value drawn for it. -/
theorem cautiousC_eq (f : Ccr) (s : State) :
    cautiousC (s.withCcr { f with c := s.ccr.c }) = { s with ccr := { f with c := keptCarry s }, draws := flagDraws s } := by
  cases h : s.params.cautiousFlags with
  | false => rw [cautiousC, if_neg (by simp [h]), keptCarry, flagDraws, if_neg (by simp [h]), if_neg (by simp [h])]; rfl
  | true => rw [cautiousC, if_pos (by simp [h]), keptCarry, flagDraws, if_pos h, if_pos h]; rfl

/-- V with `cautious_flags`: the value computed, or one free value drawn for it. -/
theorem cautiousV_eq (f : Ccr) (v : Bool) (s : State) :
    cautiousV (s.withCcr { f with v := v }) = { s with ccr := { f with v := shiftOverflow v s }, draws := flagDraws s } := by
  cases h : s.params.cautiousFlags with
  | false => rw [cautiousV, if_neg (by simp [h]), shiftOverflow, flagDraws, if_neg (by simp [h]), if_neg (by simp [h])]; rfl
  | true => rw [cautiousV, if_pos (by simp [h]), shiftOverflow, flagDraws, if_pos h, if_pos h]; rfl

/-! ### Refusals of accesses -/

/-- `MemRead` at any state of the same parameters is refused exactly as its access is. -/
theorem memRead_accessRefusal {s t : State} (h : t.params = s.params) (a : Addr) :
    memRead a t =
      match accessRefusal s (.read a) with
      | some r => .refused r
      | none => .next (loadValue a t, afterLoad a t) := by
  simp only [memRead, region_congr h, accessRefusal]
  split <;> simp

/-- `MemWrite` at any state of the same parameters is refused exactly as its access is. -/
theorem memWrite_accessRefusal {s t : State} (h : t.params = s.params) (a : Addr) (v : Byte) :
    memWrite a v t =
      match accessRefusal s (.write a) with
      | some r => .refused r
      | none => .next (afterStore a v t) := by
  have e : accessRefusal s (.write a) = storeRefusal a t := by
    rw [storeRefusal_congr h]; simp [storeRefusal, accessRefusal]
  rw [e]; rfl

end Sys2Proof.Machine
end

