-- ==== Sys2Proof/Laws/PerInstr.lean ====
section
/-! SUPPORT. Facts about the syntax of instructions, one lemma per constructor. -/
namespace Sys2Proof.Laws.EncodedLength

/-- The encoder writes as many bytes as the instruction's length, from which `next` is computed (30_encoding.md R83). -/
def Statement (i : Instr) : Prop := i.wf = true → (encode i).length = i.size

theorem lda (o : Operand8) : Statement (.lda o) := by
  cases o with
  | imm v => exact fun _ => rfl
  | mem m => cases m <;> exact fun _ => rfl
theorem ldhx (o : Operand16) : Statement (.ldhx o) := by
  cases o with
  | imm v => exact fun _ => rfl
  | mem m => cases m <;> first | exact fun _ => rfl | exact fun h => nomatch h
theorem ldx (o : Operand8) : Statement (.ldx o) := by
  cases o with
  | imm v => exact fun _ => rfl
  | mem m => cases m <;> exact fun _ => rfl
theorem sta (m : Mode) : Statement (.sta m) := by cases m <;> exact fun _ => rfl
theorem sthx (m : Mode) : Statement (.sthx m) := by cases m <;> first | exact fun _ => rfl | exact fun h => nomatch h
theorem stx (m : Mode) : Statement (.stx m) := by cases m <;> exact fun _ => rfl
theorem bset (n : Fin 8) (dd : Byte) : Statement (.bset n dd) := fun _ => rfl
theorem bclr (n : Fin 8) (dd : Byte) : Statement (.bclr n dd) := fun _ => rfl
theorem mov (f : MovForm) : Statement (.mov f) := by cases f <;> exact fun _ => rfl
theorem tax : Statement .tax := fun _ => rfl
theorem txa : Statement .txa := fun _ => rfl
theorem tap : Statement .tap := fun _ => rfl
theorem tpa : Statement .tpa := fun _ => rfl
theorem nsa : Statement .nsa := fun _ => rfl
theorem adc (o : Operand8) : Statement (.adc o) := by
  cases o with
  | imm v => exact fun _ => rfl
  | mem m => cases m <;> exact fun _ => rfl
theorem add (o : Operand8) : Statement (.add o) := by
  cases o with
  | imm v => exact fun _ => rfl
  | mem m => cases m <;> exact fun _ => rfl
theorem ais (ii : Byte) : Statement (.ais ii) := fun _ => rfl
theorem aix (ii : Byte) : Statement (.aix ii) := fun _ => rfl
theorem sub (o : Operand8) : Statement (.sub o) := by
  cases o with
  | imm v => exact fun _ => rfl
  | mem m => cases m <;> exact fun _ => rfl
theorem sbc (o : Operand8) : Statement (.sbc o) := by
  cases o with
  | imm v => exact fun _ => rfl
  | mem m => cases m <;> exact fun _ => rfl
theorem mul : Statement .mul := fun _ => rfl
theorem div : Statement .div := fun _ => rfl
theorem inc (m : Mode) : Statement (.inc m) := by cases m <;> first | exact fun _ => rfl | exact fun h => nomatch h
theorem inca : Statement .inca := fun _ => rfl
theorem incx : Statement .incx := fun _ => rfl
theorem dec (m : Mode) : Statement (.dec m) := by cases m <;> first | exact fun _ => rfl | exact fun h => nomatch h
theorem deca : Statement .deca := fun _ => rfl
theorem decx : Statement .decx := fun _ => rfl
theorem clr (m : Mode) : Statement (.clr m) := by cases m <;> first | exact fun _ => rfl | exact fun h => nomatch h
theorem clra : Statement .clra := fun _ => rfl
theorem clrx : Statement .clrx := fun _ => rfl
theorem clrh : Statement .clrh := fun _ => rfl
theorem neg (m : Mode) : Statement (.neg m) := by cases m <;> first | exact fun _ => rfl | exact fun h => nomatch h
theorem nega : Statement .nega := fun _ => rfl
theorem negx : Statement .negx := fun _ => rfl
theorem cmp (o : Operand8) : Statement (.cmp o) := by
  cases o with
  | imm v => exact fun _ => rfl
  | mem m => cases m <;> exact fun _ => rfl
theorem cphx (o : Operand16) : Statement (.cphx o) := by
  cases o with
  | imm v => exact fun _ => rfl
  | mem m => cases m <;> first | exact fun _ => rfl | exact fun h => nomatch h
theorem cpx (o : Operand8) : Statement (.cpx o) := by
  cases o with
  | imm v => exact fun _ => rfl
  | mem m => cases m <;> exact fun _ => rfl
theorem tst (m : Mode) : Statement (.tst m) := by cases m <;> first | exact fun _ => rfl | exact fun h => nomatch h
theorem tsta : Statement .tsta := fun _ => rfl
theorem tstx : Statement .tstx := fun _ => rfl
theorem daa : Statement .daa := fun _ => rfl
theorem and (o : Operand8) : Statement (.and o) := by
  cases o with
  | imm v => exact fun _ => rfl
  | mem m => cases m <;> exact fun _ => rfl
theorem ora (o : Operand8) : Statement (.ora o) := by
  cases o with
  | imm v => exact fun _ => rfl
  | mem m => cases m <;> exact fun _ => rfl
theorem eor (o : Operand8) : Statement (.eor o) := by
  cases o with
  | imm v => exact fun _ => rfl
  | mem m => cases m <;> exact fun _ => rfl
theorem com (m : Mode) : Statement (.com m) := by cases m <;> first | exact fun _ => rfl | exact fun h => nomatch h
theorem coma : Statement .coma := fun _ => rfl
theorem comx : Statement .comx := fun _ => rfl
theorem bit (o : Operand8) : Statement (.bit o) := by
  cases o with
  | imm v => exact fun _ => rfl
  | mem m => cases m <;> exact fun _ => rfl
theorem lsl (m : Mode) : Statement (.lsl m) := by cases m <;> first | exact fun _ => rfl | exact fun h => nomatch h
theorem lsla : Statement .lsla := fun _ => rfl
theorem lslx : Statement .lslx := fun _ => rfl
theorem asl (m : Mode) : Statement (.asl m) := by cases m <;> first | exact fun _ => rfl | exact fun h => nomatch h
theorem asla : Statement .asla := fun _ => rfl
theorem aslx : Statement .aslx := fun _ => rfl
theorem lsr (m : Mode) : Statement (.lsr m) := by cases m <;> first | exact fun _ => rfl | exact fun h => nomatch h
theorem lsra : Statement .lsra := fun _ => rfl
theorem lsrx : Statement .lsrx := fun _ => rfl
theorem asr (m : Mode) : Statement (.asr m) := by cases m <;> first | exact fun _ => rfl | exact fun h => nomatch h
theorem asra : Statement .asra := fun _ => rfl
theorem asrx : Statement .asrx := fun _ => rfl
theorem rol (m : Mode) : Statement (.rol m) := by cases m <;> first | exact fun _ => rfl | exact fun h => nomatch h
theorem rola : Statement .rola := fun _ => rfl
theorem rolx : Statement .rolx := fun _ => rfl
theorem ror (m : Mode) : Statement (.ror m) := by cases m <;> first | exact fun _ => rfl | exact fun h => nomatch h
theorem rora : Statement .rora := fun _ => rfl
theorem rorx : Statement .rorx := fun _ => rfl
theorem jmp (m : Mode) : Statement (.jmp m) := by cases m <;> first | exact fun _ => rfl | exact fun h => nomatch h
theorem bra (rr : Byte) : Statement (.bra rr) := fun _ => rfl
theorem brn (rr : Byte) : Statement (.brn rr) := fun _ => rfl
theorem bhi (rr : Byte) : Statement (.bhi rr) := fun _ => rfl
theorem bls (rr : Byte) : Statement (.bls rr) := fun _ => rfl
theorem bcc (rr : Byte) : Statement (.bcc rr) := fun _ => rfl
theorem bhs (rr : Byte) : Statement (.bhs rr) := fun _ => rfl
theorem bcs (rr : Byte) : Statement (.bcs rr) := fun _ => rfl
theorem blo (rr : Byte) : Statement (.blo rr) := fun _ => rfl
theorem bne (rr : Byte) : Statement (.bne rr) := fun _ => rfl
theorem beq (rr : Byte) : Statement (.beq rr) := fun _ => rfl
theorem bhcc (rr : Byte) : Statement (.bhcc rr) := fun _ => rfl
theorem bhcs (rr : Byte) : Statement (.bhcs rr) := fun _ => rfl
theorem bpl (rr : Byte) : Statement (.bpl rr) := fun _ => rfl
theorem bmi (rr : Byte) : Statement (.bmi rr) := fun _ => rfl
theorem bmc (rr : Byte) : Statement (.bmc rr) := fun _ => rfl
theorem bms (rr : Byte) : Statement (.bms rr) := fun _ => rfl
theorem bil (rr : Byte) : Statement (.bil rr) := fun _ => rfl
theorem bih (rr : Byte) : Statement (.bih rr) := fun _ => rfl
theorem bge (rr : Byte) : Statement (.bge rr) := fun _ => rfl
theorem blt (rr : Byte) : Statement (.blt rr) := fun _ => rfl
theorem bgt (rr : Byte) : Statement (.bgt rr) := fun _ => rfl
theorem ble (rr : Byte) : Statement (.ble rr) := fun _ => rfl
theorem txs : Statement .txs := fun _ => rfl

end Sys2Proof.Laws.EncodedLength
end

