-- ==== Sys2Proof/Tests/Slice0.lean ====
section
/-! SUPPORT. Tests and witnesses. Expected results are the spec's: the rows of opcode_table.json, and the vectors of
95_test_vectors.md, section 2, whose conventions `vectorStart` follows. A witness shows that the hypotheses of a statement of
Obligations.lean can be met, clause by clause. -/
namespace Sys2Proof.Tests

open Sys2Proof Sys2Proof.Machine

/-! ### Well-formedness: the check refuses an ill-formed term -/

theorem test_wf_ldhx_has_no_sp2 : (Instr.ldhx (.mem (.sp2 0#16))).wf = false ∧ (Instr.ldhx (.mem (.sp1 0#8))).wf = true := by decide

theorem test_wf_sthx_has_no_ix : (Instr.sthx .ix).wf = false ∧ (Instr.sthx (.sp1 0#8)).wf = true := by decide

theorem test_wf_cphx_has_no_ix1 : (Instr.cphx (.mem (.ix1 0#8))).wf = false ∧ (Instr.cphx (.imm 0#16)).wf = true := by decide

theorem test_wf_rmw_has_no_ext : (Instr.inc (.ext 0#16)).wf = false ∧ (Instr.tst (.ix2 0#16)).wf = false ∧ (Instr.ror .ix).wf = true := by
  decide

theorem test_wf_jmp_has_no_sp1 : (Instr.jmp (.sp1 0#8)).wf = false ∧ (Instr.jmp .ix).wf = true := by decide

/-! ### Decoding: words written out from the table, with the operand bytes $D5 and $3A -/

/-- Each list of bytes decodes, whole, to the instruction beside it, and is its encoding. -/
def decodesAll (rows : List (List Byte × Instr)) : Bool :=
  rows.all fun (bytes, i) =>
    match decode bytes with
    | .ok (j, []) => j == i && encode i == bytes
    | _ => false

theorem test_decode_loads : decodesAll
    [([0xA6#8, 0xD5#8], .lda (.imm 0xD5#8)), ([0xB6#8, 0xD5#8], .lda (.mem (.dir 0xD5#8))),
      ([0xC6#8, 0xD5#8, 0x3A#8], .lda (.mem (.ext 0xD53A#16))), ([0xD6#8, 0xD5#8, 0x3A#8], .lda (.mem (.ix2 0xD53A#16))),
      ([0xE6#8, 0xD5#8], .lda (.mem (.ix1 0xD5#8))), ([0xF6#8], .lda (.mem .ix)),
      ([0x9E#8, 0xD6#8, 0xD5#8, 0x3A#8], .lda (.mem (.sp2 0xD53A#16))), ([0x9E#8, 0xE6#8, 0xD5#8], .lda (.mem (.sp1 0xD5#8))),
      ([0x45#8, 0xD5#8, 0x3A#8], .ldhx (.imm 0xD53A#16)), ([0x55#8, 0xD5#8], .ldhx (.mem (.dir 0xD5#8))),
      ([0x32#8, 0xD5#8, 0x3A#8], .ldhx (.mem (.ext 0xD53A#16))), ([0x9E#8, 0xAE#8], .ldhx (.mem .ix)),
      ([0x9E#8, 0xBE#8, 0xD5#8, 0x3A#8], .ldhx (.mem (.ix2 0xD53A#16))), ([0x9E#8, 0xCE#8, 0xD5#8], .ldhx (.mem (.ix1 0xD5#8))),
      ([0x9E#8, 0xFE#8, 0xD5#8], .ldhx (.mem (.sp1 0xD5#8))), ([0xAE#8, 0xD5#8], .ldx (.imm 0xD5#8)),
      ([0xBE#8, 0xD5#8], .ldx (.mem (.dir 0xD5#8))), ([0xCE#8, 0xD5#8, 0x3A#8], .ldx (.mem (.ext 0xD53A#16))),
      ([0xDE#8, 0xD5#8, 0x3A#8], .ldx (.mem (.ix2 0xD53A#16))), ([0xEE#8, 0xD5#8], .ldx (.mem (.ix1 0xD5#8))),
      ([0xFE#8], .ldx (.mem .ix)), ([0x9E#8, 0xDE#8, 0xD5#8, 0x3A#8], .ldx (.mem (.sp2 0xD53A#16))),
      ([0x9E#8, 0xEE#8, 0xD5#8], .ldx (.mem (.sp1 0xD5#8)))] = true := by
  decide

theorem test_decode_stores : decodesAll
    [([0xB7#8, 0xD5#8], .sta (.dir 0xD5#8)), ([0xC7#8, 0xD5#8, 0x3A#8], .sta (.ext 0xD53A#16)),
      ([0xD7#8, 0xD5#8, 0x3A#8], .sta (.ix2 0xD53A#16)), ([0xE7#8, 0xD5#8], .sta (.ix1 0xD5#8)), ([0xF7#8], .sta .ix),
      ([0x9E#8, 0xD7#8, 0xD5#8, 0x3A#8], .sta (.sp2 0xD53A#16)), ([0x9E#8, 0xE7#8, 0xD5#8], .sta (.sp1 0xD5#8)),
      ([0x35#8, 0xD5#8], .sthx (.dir 0xD5#8)), ([0x96#8, 0xD5#8, 0x3A#8], .sthx (.ext 0xD53A#16)),
      ([0x9E#8, 0xFF#8, 0xD5#8], .sthx (.sp1 0xD5#8)), ([0xBF#8, 0xD5#8], .stx (.dir 0xD5#8)),
      ([0xCF#8, 0xD5#8, 0x3A#8], .stx (.ext 0xD53A#16)), ([0xDF#8, 0xD5#8, 0x3A#8], .stx (.ix2 0xD53A#16)),
      ([0xEF#8, 0xD5#8], .stx (.ix1 0xD5#8)), ([0xFF#8], .stx .ix), ([0x9E#8, 0xDF#8, 0xD5#8, 0x3A#8], .stx (.sp2 0xD53A#16)),
      ([0x9E#8, 0xEF#8, 0xD5#8], .stx (.sp1 0xD5#8))] = true := by
  decide

theorem test_decode_bits_moves_transfers : decodesAll
    [([0x10#8, 0xD5#8], .bset 0 0xD5#8), ([0x12#8, 0xD5#8], .bset 1 0xD5#8), ([0x14#8, 0xD5#8], .bset 2 0xD5#8),
      ([0x16#8, 0xD5#8], .bset 3 0xD5#8), ([0x18#8, 0xD5#8], .bset 4 0xD5#8), ([0x1A#8, 0xD5#8], .bset 5 0xD5#8),
      ([0x1C#8, 0xD5#8], .bset 6 0xD5#8), ([0x1E#8, 0xD5#8], .bset 7 0xD5#8), ([0x11#8, 0xD5#8], .bclr 0 0xD5#8),
      ([0x13#8, 0xD5#8], .bclr 1 0xD5#8), ([0x15#8, 0xD5#8], .bclr 2 0xD5#8), ([0x17#8, 0xD5#8], .bclr 3 0xD5#8),
      ([0x19#8, 0xD5#8], .bclr 4 0xD5#8), ([0x1B#8, 0xD5#8], .bclr 5 0xD5#8), ([0x1D#8, 0xD5#8], .bclr 6 0xD5#8),
      ([0x1F#8, 0xD5#8], .bclr 7 0xD5#8), ([0x4E#8, 0xD5#8, 0x3A#8], .mov (.dirDir 0xD5#8 0x3A#8)),
      ([0x5E#8, 0xD5#8], .mov (.dirIxp 0xD5#8)), ([0x6E#8, 0xD5#8, 0x3A#8], .mov (.immDir 0xD5#8 0x3A#8)),
      ([0x7E#8, 0xD5#8], .mov (.ixpDir 0xD5#8)), ([0x97#8], .tax), ([0x9F#8], .txa), ([0x84#8], .tap), ([0x85#8], .tpa), ([0x62#8], .nsa)] = true := by
  decide

theorem test_decode_add_subtract : decodesAll
    [([0xA9#8, 0xD5#8], .adc (.imm 0xD5#8)), ([0xB9#8, 0xD5#8], .adc (.mem (.dir 0xD5#8))),
      ([0xC9#8, 0xD5#8, 0x3A#8], .adc (.mem (.ext 0xD53A#16))), ([0xD9#8, 0xD5#8, 0x3A#8], .adc (.mem (.ix2 0xD53A#16))),
      ([0xE9#8, 0xD5#8], .adc (.mem (.ix1 0xD5#8))), ([0xF9#8], .adc (.mem .ix)),
      ([0x9E#8, 0xD9#8, 0xD5#8, 0x3A#8], .adc (.mem (.sp2 0xD53A#16))), ([0x9E#8, 0xE9#8, 0xD5#8], .adc (.mem (.sp1 0xD5#8))),
      ([0xAB#8, 0xD5#8], .add (.imm 0xD5#8)), ([0xBB#8, 0xD5#8], .add (.mem (.dir 0xD5#8))),
      ([0xCB#8, 0xD5#8, 0x3A#8], .add (.mem (.ext 0xD53A#16))), ([0xDB#8, 0xD5#8, 0x3A#8], .add (.mem (.ix2 0xD53A#16))),
      ([0xEB#8, 0xD5#8], .add (.mem (.ix1 0xD5#8))), ([0xFB#8], .add (.mem .ix)),
      ([0x9E#8, 0xDB#8, 0xD5#8, 0x3A#8], .add (.mem (.sp2 0xD53A#16))), ([0x9E#8, 0xEB#8, 0xD5#8], .add (.mem (.sp1 0xD5#8))),
      ([0xA7#8, 0xD5#8], .ais 0xD5#8), ([0xAF#8, 0xD5#8], .aix 0xD5#8), ([0xA0#8, 0xD5#8], .sub (.imm 0xD5#8)),
      ([0xB0#8, 0xD5#8], .sub (.mem (.dir 0xD5#8))), ([0xC0#8, 0xD5#8, 0x3A#8], .sub (.mem (.ext 0xD53A#16))),
      ([0xD0#8, 0xD5#8, 0x3A#8], .sub (.mem (.ix2 0xD53A#16))), ([0xE0#8, 0xD5#8], .sub (.mem (.ix1 0xD5#8))),
      ([0xF0#8], .sub (.mem .ix)), ([0x9E#8, 0xD0#8, 0xD5#8, 0x3A#8], .sub (.mem (.sp2 0xD53A#16))),
      ([0x9E#8, 0xE0#8, 0xD5#8], .sub (.mem (.sp1 0xD5#8))), ([0xA2#8, 0xD5#8], .sbc (.imm 0xD5#8)),
      ([0xB2#8, 0xD5#8], .sbc (.mem (.dir 0xD5#8))), ([0xC2#8, 0xD5#8, 0x3A#8], .sbc (.mem (.ext 0xD53A#16))),
      ([0xD2#8, 0xD5#8, 0x3A#8], .sbc (.mem (.ix2 0xD53A#16))), ([0xE2#8, 0xD5#8], .sbc (.mem (.ix1 0xD5#8))),
      ([0xF2#8], .sbc (.mem .ix)), ([0x9E#8, 0xD2#8, 0xD5#8, 0x3A#8], .sbc (.mem (.sp2 0xD53A#16))),
      ([0x9E#8, 0xE2#8, 0xD5#8], .sbc (.mem (.sp1 0xD5#8))), ([0x42#8], .mul), ([0x52#8], .div)] = true := by
  decide

theorem test_decode_other_arithmetic : decodesAll
    [([0x3C#8, 0xD5#8], .inc (.dir 0xD5#8)), ([0x4C#8], .inca), ([0x5C#8], .incx), ([0x6C#8, 0xD5#8], .inc (.ix1 0xD5#8)),
      ([0x7C#8], .inc .ix), ([0x9E#8, 0x6C#8, 0xD5#8], .inc (.sp1 0xD5#8)), ([0x3A#8, 0xD5#8], .dec (.dir 0xD5#8)), ([0x4A#8], .deca),
      ([0x5A#8], .decx), ([0x6A#8, 0xD5#8], .dec (.ix1 0xD5#8)), ([0x7A#8], .dec .ix), ([0x9E#8, 0x6A#8, 0xD5#8], .dec (.sp1 0xD5#8)),
      ([0x3F#8, 0xD5#8], .clr (.dir 0xD5#8)), ([0x4F#8], .clra), ([0x5F#8], .clrx), ([0x6F#8, 0xD5#8], .clr (.ix1 0xD5#8)),
      ([0x7F#8], .clr .ix), ([0x9E#8, 0x6F#8, 0xD5#8], .clr (.sp1 0xD5#8)), ([0x8C#8], .clrh), ([0x30#8, 0xD5#8], .neg (.dir 0xD5#8)),
      ([0x40#8], .nega), ([0x50#8], .negx), ([0x60#8, 0xD5#8], .neg (.ix1 0xD5#8)), ([0x70#8], .neg .ix),
      ([0x9E#8, 0x60#8, 0xD5#8], .neg (.sp1 0xD5#8)), ([0x3D#8, 0xD5#8], .tst (.dir 0xD5#8)), ([0x4D#8], .tsta), ([0x5D#8], .tstx),
      ([0x6D#8, 0xD5#8], .tst (.ix1 0xD5#8)), ([0x7D#8], .tst .ix), ([0x9E#8, 0x6D#8, 0xD5#8], .tst (.sp1 0xD5#8)), ([0x72#8], .daa)] = true := by
  decide

theorem test_decode_compares : decodesAll
    [([0xA1#8, 0xD5#8], .cmp (.imm 0xD5#8)), ([0xB1#8, 0xD5#8], .cmp (.mem (.dir 0xD5#8))),
      ([0xC1#8, 0xD5#8, 0x3A#8], .cmp (.mem (.ext 0xD53A#16))), ([0xD1#8, 0xD5#8, 0x3A#8], .cmp (.mem (.ix2 0xD53A#16))),
      ([0xE1#8, 0xD5#8], .cmp (.mem (.ix1 0xD5#8))), ([0xF1#8], .cmp (.mem .ix)),
      ([0x9E#8, 0xD1#8, 0xD5#8, 0x3A#8], .cmp (.mem (.sp2 0xD53A#16))), ([0x9E#8, 0xE1#8, 0xD5#8], .cmp (.mem (.sp1 0xD5#8))),
      ([0x3E#8, 0xD5#8, 0x3A#8], .cphx (.mem (.ext 0xD53A#16))), ([0x65#8, 0xD5#8, 0x3A#8], .cphx (.imm 0xD53A#16)),
      ([0x75#8, 0xD5#8], .cphx (.mem (.dir 0xD5#8))), ([0x9E#8, 0xF3#8, 0xD5#8], .cphx (.mem (.sp1 0xD5#8))),
      ([0xA3#8, 0xD5#8], .cpx (.imm 0xD5#8)), ([0xB3#8, 0xD5#8], .cpx (.mem (.dir 0xD5#8))),
      ([0xC3#8, 0xD5#8, 0x3A#8], .cpx (.mem (.ext 0xD53A#16))), ([0xD3#8, 0xD5#8, 0x3A#8], .cpx (.mem (.ix2 0xD53A#16))),
      ([0xE3#8, 0xD5#8], .cpx (.mem (.ix1 0xD5#8))), ([0xF3#8], .cpx (.mem .ix)),
      ([0x9E#8, 0xD3#8, 0xD5#8, 0x3A#8], .cpx (.mem (.sp2 0xD53A#16))), ([0x9E#8, 0xE3#8, 0xD5#8], .cpx (.mem (.sp1 0xD5#8)))] = true := by
  decide

theorem test_decode_logical : decodesAll
    [([0xA4#8, 0xD5#8], .and (.imm 0xD5#8)), ([0xB4#8, 0xD5#8], .and (.mem (.dir 0xD5#8))),
      ([0xC4#8, 0xD5#8, 0x3A#8], .and (.mem (.ext 0xD53A#16))), ([0xD4#8, 0xD5#8, 0x3A#8], .and (.mem (.ix2 0xD53A#16))),
      ([0xE4#8, 0xD5#8], .and (.mem (.ix1 0xD5#8))), ([0xF4#8], .and (.mem .ix)),
      ([0x9E#8, 0xD4#8, 0xD5#8, 0x3A#8], .and (.mem (.sp2 0xD53A#16))), ([0x9E#8, 0xE4#8, 0xD5#8], .and (.mem (.sp1 0xD5#8))),
      ([0xAA#8, 0xD5#8], .ora (.imm 0xD5#8)), ([0xBA#8, 0xD5#8], .ora (.mem (.dir 0xD5#8))),
      ([0xCA#8, 0xD5#8, 0x3A#8], .ora (.mem (.ext 0xD53A#16))), ([0xDA#8, 0xD5#8, 0x3A#8], .ora (.mem (.ix2 0xD53A#16))),
      ([0xEA#8, 0xD5#8], .ora (.mem (.ix1 0xD5#8))), ([0xFA#8], .ora (.mem .ix)),
      ([0x9E#8, 0xDA#8, 0xD5#8, 0x3A#8], .ora (.mem (.sp2 0xD53A#16))), ([0x9E#8, 0xEA#8, 0xD5#8], .ora (.mem (.sp1 0xD5#8))),
      ([0xA8#8, 0xD5#8], .eor (.imm 0xD5#8)), ([0xB8#8, 0xD5#8], .eor (.mem (.dir 0xD5#8))),
      ([0xC8#8, 0xD5#8, 0x3A#8], .eor (.mem (.ext 0xD53A#16))), ([0xD8#8, 0xD5#8, 0x3A#8], .eor (.mem (.ix2 0xD53A#16))),
      ([0xE8#8, 0xD5#8], .eor (.mem (.ix1 0xD5#8))), ([0xF8#8], .eor (.mem .ix)),
      ([0x9E#8, 0xD8#8, 0xD5#8, 0x3A#8], .eor (.mem (.sp2 0xD53A#16))), ([0x9E#8, 0xE8#8, 0xD5#8], .eor (.mem (.sp1 0xD5#8))),
      ([0x33#8, 0xD5#8], .com (.dir 0xD5#8)), ([0x43#8], .coma), ([0x53#8], .comx), ([0x63#8, 0xD5#8], .com (.ix1 0xD5#8)),
      ([0x73#8], .com .ix), ([0x9E#8, 0x63#8, 0xD5#8], .com (.sp1 0xD5#8)), ([0xA5#8, 0xD5#8], .bit (.imm 0xD5#8)),
      ([0xB5#8, 0xD5#8], .bit (.mem (.dir 0xD5#8))), ([0xC5#8, 0xD5#8, 0x3A#8], .bit (.mem (.ext 0xD53A#16))),
      ([0xD5#8, 0xD5#8, 0x3A#8], .bit (.mem (.ix2 0xD53A#16))), ([0xE5#8, 0xD5#8], .bit (.mem (.ix1 0xD5#8))),
      ([0xF5#8], .bit (.mem .ix)), ([0x9E#8, 0xD5#8, 0xD5#8, 0x3A#8], .bit (.mem (.sp2 0xD53A#16))),
      ([0x9E#8, 0xE5#8, 0xD5#8], .bit (.mem (.sp1 0xD5#8)))] = true := by
  decide

theorem test_decode_shifts : decodesAll
    [([0x38#8, 0xD5#8], .lsl (.dir 0xD5#8)), ([0x48#8], .lsla), ([0x58#8], .lslx), ([0x68#8, 0xD5#8], .lsl (.ix1 0xD5#8)),
      ([0x78#8], .lsl .ix), ([0x9E#8, 0x68#8, 0xD5#8], .lsl (.sp1 0xD5#8)), ([0x34#8, 0xD5#8], .lsr (.dir 0xD5#8)), ([0x44#8], .lsra),
      ([0x54#8], .lsrx), ([0x64#8, 0xD5#8], .lsr (.ix1 0xD5#8)), ([0x74#8], .lsr .ix), ([0x9E#8, 0x64#8, 0xD5#8], .lsr (.sp1 0xD5#8)),
      ([0x37#8, 0xD5#8], .asr (.dir 0xD5#8)), ([0x47#8], .asra), ([0x57#8], .asrx), ([0x67#8, 0xD5#8], .asr (.ix1 0xD5#8)),
      ([0x77#8], .asr .ix), ([0x9E#8, 0x67#8, 0xD5#8], .asr (.sp1 0xD5#8))] = true := by
  decide

theorem test_decode_rotates : decodesAll
    [([0x39#8, 0xD5#8], .rol (.dir 0xD5#8)), ([0x49#8], .rola), ([0x59#8], .rolx), ([0x69#8, 0xD5#8], .rol (.ix1 0xD5#8)),
      ([0x79#8], .rol .ix), ([0x9E#8, 0x69#8, 0xD5#8], .rol (.sp1 0xD5#8)), ([0x36#8, 0xD5#8], .ror (.dir 0xD5#8)), ([0x46#8], .rora),
      ([0x56#8], .rorx), ([0x66#8, 0xD5#8], .ror (.ix1 0xD5#8)), ([0x76#8], .ror .ix), ([0x9E#8, 0x66#8, 0xD5#8], .ror (.sp1 0xD5#8))] = true := by
  decide

theorem test_decode_jump_branches : decodesAll
    [([0xBC#8, 0xD5#8], .jmp (.dir 0xD5#8)), ([0xCC#8, 0xD5#8, 0x3A#8], .jmp (.ext 0xD53A#16)),
      ([0xDC#8, 0xD5#8, 0x3A#8], .jmp (.ix2 0xD53A#16)), ([0xEC#8, 0xD5#8], .jmp (.ix1 0xD5#8)), ([0xFC#8], .jmp .ix),
      ([0x20#8, 0xD5#8], .bra 0xD5#8), ([0x21#8, 0xD5#8], .brn 0xD5#8), ([0x22#8, 0xD5#8], .bhi 0xD5#8), ([0x23#8, 0xD5#8], .bls 0xD5#8),
      ([0x24#8, 0xD5#8], .bcc 0xD5#8), ([0x25#8, 0xD5#8], .bcs 0xD5#8), ([0x26#8, 0xD5#8], .bne 0xD5#8), ([0x27#8, 0xD5#8], .beq 0xD5#8),
      ([0x28#8, 0xD5#8], .bhcc 0xD5#8), ([0x29#8, 0xD5#8], .bhcs 0xD5#8), ([0x2A#8, 0xD5#8], .bpl 0xD5#8),
      ([0x2B#8, 0xD5#8], .bmi 0xD5#8), ([0x2C#8, 0xD5#8], .bmc 0xD5#8), ([0x2D#8, 0xD5#8], .bms 0xD5#8), ([0x2E#8, 0xD5#8], .bil 0xD5#8),
      ([0x2F#8, 0xD5#8], .bih 0xD5#8), ([0x90#8, 0xD5#8], .bge 0xD5#8), ([0x91#8, 0xD5#8], .blt 0xD5#8), ([0x92#8, 0xD5#8], .bgt 0xD5#8),
      ([0x93#8, 0xD5#8], .ble 0xD5#8), ([0x94#8], .txs)] = true := by
  decide

theorem test_decode_second_spellings : encode (.asl .ix) = [0x78#8] ∧ encode .asla = [0x48#8] ∧ encode .aslx = [0x58#8] ∧
    encode (.bhs 0xD5#8) = [0x24#8, 0xD5#8] ∧ encode (.blo 0xD5#8) = [0x25#8, 0xD5#8] := by decide

/-- The table's numbering: byte 0 is the low byte of the word, and the bytes above `nbits` are zero. -/
theorem test_decode_table_word : decodeTableWord 32 0x2C01D69E = some (.lda (.mem (.sp2 0x012C#16))) ∧
    decodeTableWord 8 0x45 = some (.ldhx (.imm 0x0000#16)) ∧ decodeTableWord 8 0x00 = none ∧ decodeTableWord 16 0xAF9E = none := by decide

/-! ### One step on a small state -/

/-- The default start state of the vectors. -/
def vectorStart : State := { State.reset with pc := 0xC200#16, ccr := ⟨false, false, false, false, false, false⟩ }

/-- The flags V H I N Z C from six digits. -/
def flags (f : BitVec 6) : Ccr where
  v := f.getLsbD 5
  h := f.getLsbD 4
  i := f.getLsbD 3
  n := f.getLsbD 2
  z := f.getLsbD 1
  c := f.getLsbD 0

/-- The state with bytes at addresses. -/
def holding (s : State) (cells : List (Addr × Byte)) : State :=
  { s with mem := cells.foldl (fun m p => m.write p.1.toNat p.2) s.mem }

/-- What a vector lists: A, H:X, SP, pc and the flags, and the bytes at some addresses. -/
abbrev Seen := (Byte × Addr × Addr × Addr × Ccr) × List Byte

def seen (cells : List Addr) (t : State) : Seen := ((t.a, t.hx, t.sp, t.pc, t.ccr), cells.map t.byteAt)

/-- One step from the state with the bytes placed at pc. -/
def ran (s : State) (bytes : List Byte) (cells : List Addr) : Option Seen :=
  match step (placeAtPc s bytes) with
  | .next t => some (seen cells t)
  | .fault _ | .refused _ => none

/-- The same, with V left out. -/
def ranButV (s : State) (bytes : List Byte) : Option Seen :=
  match step (placeAtPc s bytes) with
  | .next t => some (seen [] { t with ccr := { t.ccr with v := false } })
  | .fault _ | .refused _ => none

/-- Why one step from the state with the bytes placed at pc is refused. -/
def refusalOf (s : State) (bytes : List Byte) : Option Refusal :=
  match step (placeAtPc s bytes) with
  | .refused r => some r
  | .next _ | .fault _ => none

/-! ### Loads and stores: vectors of section 2 -/

theorem test_lda_ix2 :
    ran (holding { vectorStart with x := 0xFF#8, h := 0xFF#8 } [(0x0001#16, 0xAA#8)]) [0xD6#8, 0x00#8, 0x02#8] [] =
      some ((0xAA#8, 0xFFFF#16, 0x00FF#16, 0xC203#16, flags 0b000100#6), []) := by decide

theorem test_lda_sp1 :
    ran (holding vectorStart [(0x01FE#16, 0xDD#8)]) [0x9E#8, 0xE6#8, 0xFF#8] [] =
      some ((0xDD#8, 0x0000#16, 0x00FF#16, 0xC203#16, flags 0b000100#6), []) := by decide

theorem test_ldhx_ext :
    ran (holding vectorStart [(0xFFFF#16, 0x00#8), (0x0000#16, 0x00#8)]) [0x32#8, 0xFF#8, 0xFF#8] [] =
      some ((0x00#8, 0x0000#16, 0x00FF#16, 0xC203#16, flags 0b000010#6), []) := by decide

theorem test_ldhx_sp1 :
    ran (holding vectorStart [(0x0100#16, 0xFF#8), (0x0101#16, 0xFE#8)]) [0x9E#8, 0xFE#8, 0x01#8] [] =
      some ((0x00#8, 0xFFFE#16, 0x00FF#16, 0xC203#16, flags 0b000100#6), []) := by decide

theorem test_ldx_imm :
    ran vectorStart [0xAE#8, 0xFF#8] [] =
      some ((0x00#8, 0x00FF#16, 0x00FF#16, 0xC202#16, flags 0b000100#6), []) := by decide

theorem test_ldx_sp2 :
    ran (holding vectorStart [(0x01FF#16, 0x11#8)]) [0x9E#8, 0xDE#8, 0x01#8, 0x00#8] [] =
      some ((0x00#8, 0x0011#16, 0x00FF#16, 0xC204#16, flags 0b000000#6), []) := by decide

theorem test_sta_dir :
    ran { vectorStart with ccr := flags 0b100001#6 } [0xB7#8, 0x80#8] [0x0080#16] =
      some ((0x00#8, 0x0000#16, 0x00FF#16, 0xC202#16, flags 0b000011#6), [0x00#8]) := by decide

theorem test_sta_ix1 :
    ran { vectorStart with a := 0x01#8, x := 0x01#8 } [0xE7#8, 0xFF#8] [0x0100#16] =
      some ((0x01#8, 0x0001#16, 0x00FF#16, 0xC202#16, flags 0b000000#6), [0x01#8]) := by decide

theorem test_sthx_dir :
    ran { vectorStart with x := 0x34#8, h := 0x12#8 } [0x35#8, 0xFF#8] [0x00FF#16, 0x0100#16] =
      some ((0x00#8, 0x1234#16, 0x00FF#16, 0xC202#16, flags 0b000000#6), [0x12#8, 0x34#8]) := by decide

theorem test_sthx_sp1 :
    ran { vectorStart with h := 0x80#8, sp := 0x00FD#16 } [0x9E#8, 0xFF#8, 0x01#8] [0x00FE#16, 0x00FF#16] =
      some ((0x00#8, 0x8000#16, 0x00FD#16, 0xC203#16, flags 0b000100#6), [0x80#8, 0x00#8]) := by decide

theorem test_stx_ext :
    ran vectorStart [0xCF#8, 0x01#8, 0x80#8] [0x0180#16] =
      some ((0x00#8, 0x0000#16, 0x00FF#16, 0xC203#16, flags 0b000010#6), [0x00#8]) := by decide

theorem test_stx_sp2 :
    ran { vectorStart with x := 0x03#8 } [0x9E#8, 0xDF#8, 0x01#8, 0x00#8] [0x01FF#16] =
      some ((0x00#8, 0x0003#16, 0x00FF#16, 0xC204#16, flags 0b000000#6), [0x03#8]) := by decide

/-! ### Bits, moves, transfers: vectors of section 2 -/

theorem test_bset :
    ran (holding { vectorStart with ccr := flags 0b100111#6 } [(0x0080#16, 0x00#8)]) [0x10#8, 0x80#8] [0x0080#16] =
      some ((0x00#8, 0x0000#16, 0x00FF#16, 0xC202#16, flags 0b100111#6), [0x01#8]) := by decide

theorem test_bset_again :
    ran (holding vectorStart [(0x0080#16, 0x7F#8)]) [0x1E#8, 0x80#8] [0x0080#16] =
      some ((0x00#8, 0x0000#16, 0x00FF#16, 0xC202#16, flags 0b000000#6), [0xFF#8]) := by decide

theorem test_bclr :
    ran (holding vectorStart [(0x0080#16, 0xFF#8)]) [0x11#8, 0x80#8] [0x0080#16] =
      some ((0x00#8, 0x0000#16, 0x00FF#16, 0xC202#16, flags 0b000000#6), [0xFE#8]) := by decide

theorem test_bclr_again :
    ran (holding { vectorStart with ccr := flags 0b000100#6 } [(0x0080#16, 0x80#8)]) [0x1F#8, 0x80#8] [0x0080#16] =
      some ((0x00#8, 0x0000#16, 0x00FF#16, 0xC202#16, flags 0b000100#6), [0x00#8]) := by decide

theorem test_mov_dir_dir :
    ran (holding { vectorStart with ccr := flags 0b100001#6 } [(0x0080#16, 0x00#8), (0x0081#16, 0x55#8)]) [0x4E#8, 0x80#8, 0x81#8] [0x0080#16, 0x0081#16] =
      some ((0x00#8, 0x0000#16, 0x00FF#16, 0xC203#16, flags 0b000011#6), [0x00#8, 0x00#8]) := by decide

theorem test_mov_ixp_dir :
    ran (holding { vectorStart with x := 0xFF#8, h := 0x01#8 } [(0x01FF#16, 0x42#8)]) [0x7E#8, 0x80#8] [0x0080#16] =
      some ((0x00#8, 0x0200#16, 0x00FF#16, 0xC202#16, flags 0b000000#6), [0x42#8]) := by decide

theorem test_tax :
    ran { vectorStart with a := 0x80#8, x := 0x01#8, ccr := flags 0b000010#6 } [0x97#8] [] =
      some ((0x80#8, 0x0080#16, 0x00FF#16, 0xC201#16, flags 0b000010#6), []) := by decide

theorem test_txa :
    ran { vectorStart with ccr := flags 0b000100#6 } [0x9F#8] [] =
      some ((0x00#8, 0x0000#16, 0x00FF#16, 0xC201#16, flags 0b000100#6), []) := by decide

theorem test_tap :
    ran { vectorStart with a := 0x95#8 } [0x84#8] [] =
      some ((0x95#8, 0x0000#16, 0x00FF#16, 0xC201#16, flags 0b110101#6), []) := by decide

theorem test_tap_again :
    ran { vectorStart with a := 0x6A#8 } [0x84#8] [] =
      some ((0x6A#8, 0x0000#16, 0x00FF#16, 0xC201#16, flags 0b001010#6), []) := by decide

theorem test_tpa :
    ran { vectorStart with ccr := flags 0b100001#6 } [0x85#8] [] =
      some ((0xE1#8, 0x0000#16, 0x00FF#16, 0xC201#16, flags 0b100001#6), []) := by decide

theorem test_tpa_again :
    ran { vectorStart with ccr := flags 0b010100#6 } [0x85#8] [] =
      some ((0x74#8, 0x0000#16, 0x00FF#16, 0xC201#16, flags 0b010100#6), []) := by decide

theorem test_nsa :
    ran { vectorStart with a := 0x3C#8 } [0x62#8] [] =
      some ((0xC3#8, 0x0000#16, 0x00FF#16, 0xC201#16, flags 0b000000#6), []) := by decide

/-! ### Add, subtract, multiply, divide: vectors of section 2 -/

theorem test_adc_imm :
    ran { vectorStart with a := 0xFF#8, ccr := flags 0b000001#6 } [0xA9#8, 0x00#8] [] =
      some ((0x00#8, 0x0000#16, 0x00FF#16, 0xC202#16, flags 0b010011#6), []) := by decide

theorem test_adc_imm_again :
    ran { vectorStart with ccr := flags 0b000001#6 } [0xA9#8, 0x7F#8] [] =
      some ((0x80#8, 0x0000#16, 0x00FF#16, 0xC202#16, flags 0b110100#6), []) := by decide

theorem test_add_imm :
    ran { vectorStart with a := 0x7F#8 } [0xAB#8, 0x01#8] [] =
      some ((0x80#8, 0x0000#16, 0x00FF#16, 0xC202#16, flags 0b110100#6), []) := by decide

theorem test_add_dir :
    ran (holding { vectorStart with a := 0x59#8 } [(0x0080#16, 0x57#8)]) [0xBB#8, 0x80#8] [] =
      some ((0xB0#8, 0x0000#16, 0x00FF#16, 0xC202#16, flags 0b110100#6), []) := by decide

theorem test_ais_imm :
    ran vectorStart [0xA7#8, 0x80#8] [] =
      some ((0x00#8, 0x0000#16, 0x007F#16, 0xC202#16, flags 0b000000#6), []) := by decide

theorem test_ais_imm_again :
    ran { vectorStart with sp := 0xFFFF#16 } [0xA7#8, 0x01#8] [] =
      some ((0x00#8, 0x0000#16, 0x0000#16, 0xC202#16, flags 0b000000#6), []) := by decide

theorem test_aix_imm :
    ran { vectorStart with x := 0xFF#8, h := 0xFF#8 } [0xAF#8, 0x7F#8] [] =
      some ((0x00#8, 0x007E#16, 0x00FF#16, 0xC202#16, flags 0b000000#6), []) := by decide

theorem test_aix_imm_again :
    ran { vectorStart with x := 0x7F#8 } [0xAF#8, 0x80#8] [] =
      some ((0x00#8, 0xFFFF#16, 0x00FF#16, 0xC202#16, flags 0b000000#6), []) := by decide

theorem test_sub_imm :
    ran { vectorStart with a := 0x80#8 } [0xA0#8, 0x01#8] [] =
      some ((0x7F#8, 0x0000#16, 0x00FF#16, 0xC202#16, flags 0b100000#6), []) := by decide

theorem test_sub_imm_again :
    ran { vectorStart with a := 0x7F#8 } [0xA0#8, 0xFF#8] [] =
      some ((0x80#8, 0x0000#16, 0x00FF#16, 0xC202#16, flags 0b100101#6), []) := by decide

theorem test_sbc_imm :
    ran { vectorStart with a := 0x80#8, ccr := flags 0b000001#6 } [0xA2#8, 0x7F#8] [] =
      some ((0x00#8, 0x0000#16, 0x00FF#16, 0xC202#16, flags 0b100010#6), []) := by decide

theorem test_sbc_imm_again :
    ran { vectorStart with ccr := flags 0b000001#6 } [0xA2#8, 0xFF#8] [] =
      some ((0x00#8, 0x0000#16, 0x00FF#16, 0xC202#16, flags 0b000011#6), []) := by decide

theorem test_mul :
    ran { vectorStart with a := 0xFF#8, x := 0xFF#8, ccr := flags 0b110111#6 } [0x42#8] [] =
      some ((0x01#8, 0x00FE#16, 0x00FF#16, 0xC201#16, flags 0b100110#6), []) := by decide

theorem test_mul_again :
    ran { vectorStart with a := 0x02#8, x := 0x03#8, h := 0x77#8 } [0x42#8] [] =
      some ((0x06#8, 0x7700#16, 0x00FF#16, 0xC201#16, flags 0b000000#6), []) := by decide

theorem test_div :
    ran { vectorStart with a := 0x64#8, x := 0x07#8 } [0x52#8] [] =
      some ((0x0E#8, 0x0207#16, 0x00FF#16, 0xC201#16, flags 0b000000#6), []) := by decide

theorem test_div_again :
    ran { vectorStart with a := 0xFF#8, x := 0xFF#8, h := 0xFE#8, ccr := flags 0b110100#6 } [0x52#8] [] =
      some ((0xFF#8, 0xFEFF#16, 0x00FF#16, 0xC201#16, flags 0b110100#6), []) := by decide

/-! ### Other arithmetic: vectors of section 2 -/

theorem test_inc_dir :
    ran (holding vectorStart [(0x0080#16, 0x7F#8)]) [0x3C#8, 0x80#8] [0x0080#16] =
      some ((0x00#8, 0x0000#16, 0x00FF#16, 0xC202#16, flags 0b100100#6), [0x80#8]) := by decide

theorem test_inc_sp1 :
    ran (holding vectorStart [(0x0100#16, 0xFF#8)]) [0x9E#8, 0x6C#8, 0x01#8] [0x0100#16] =
      some ((0x00#8, 0x0000#16, 0x00FF#16, 0xC203#16, flags 0b000010#6), [0x00#8]) := by decide

theorem test_inca :
    ran { vectorStart with a := 0x7F#8, ccr := flags 0b000001#6 } [0x4C#8] [] =
      some ((0x80#8, 0x0000#16, 0x00FF#16, 0xC201#16, flags 0b100101#6), []) := by decide

theorem test_incx :
    ran { vectorStart with x := 0xFF#8, h := 0x12#8 } [0x5C#8] [] =
      some ((0x00#8, 0x1200#16, 0x00FF#16, 0xC201#16, flags 0b000010#6), []) := by decide

theorem test_dec_dir :
    ran (holding vectorStart [(0x0080#16, 0x80#8)]) [0x3A#8, 0x80#8] [0x0080#16] =
      some ((0x00#8, 0x0000#16, 0x00FF#16, 0xC202#16, flags 0b100000#6), [0x7F#8]) := by decide

theorem test_dec_sp1 :
    ran (holding vectorStart [(0x0100#16, 0x81#8)]) [0x9E#8, 0x6A#8, 0x01#8] [0x0100#16] =
      some ((0x00#8, 0x0000#16, 0x00FF#16, 0xC203#16, flags 0b000100#6), [0x80#8]) := by decide

theorem test_deca :
    ran { vectorStart with a := 0x80#8, ccr := flags 0b000001#6 } [0x4A#8] [] =
      some ((0x7F#8, 0x0000#16, 0x00FF#16, 0xC201#16, flags 0b100001#6), []) := by decide

theorem test_decx :
    ran { vectorStart with h := 0x12#8 } [0x5A#8] [] =
      some ((0x00#8, 0x12FF#16, 0x00FF#16, 0xC201#16, flags 0b000100#6), []) := by decide

theorem test_clr_dir :
    ran (holding vectorStart [(0x0080#16, 0xAA#8)]) [0x3F#8, 0x80#8] [0x0080#16] =
      some ((0x00#8, 0x0000#16, 0x00FF#16, 0xC202#16, flags 0b000010#6), [0x00#8]) := by decide

theorem test_clr_sp1 :
    ran (holding vectorStart [(0x0100#16, 0xAA#8)]) [0x9E#8, 0x6F#8, 0x01#8] [0x0100#16] =
      some ((0x00#8, 0x0000#16, 0x00FF#16, 0xC203#16, flags 0b000010#6), [0x00#8]) := by decide

theorem test_clra :
    ran { vectorStart with a := 0x55#8, ccr := flags 0b111101#6 } [0x4F#8] [] =
      some ((0x00#8, 0x0000#16, 0x00FF#16, 0xC201#16, flags 0b011011#6), []) := by decide

theorem test_clrx :
    ran { vectorStart with x := 0x55#8, h := 0x12#8 } [0x5F#8] [] =
      some ((0x00#8, 0x1200#16, 0x00FF#16, 0xC201#16, flags 0b000010#6), []) := by decide

theorem test_clrh :
    ran { vectorStart with x := 0x34#8, h := 0x12#8, ccr := flags 0b000100#6 } [0x8C#8] [] =
      some ((0x00#8, 0x0034#16, 0x00FF#16, 0xC201#16, flags 0b000010#6), []) := by decide

theorem test_neg_dir :
    ran (holding vectorStart [(0x0080#16, 0x80#8)]) [0x30#8, 0x80#8] [0x0080#16] =
      some ((0x00#8, 0x0000#16, 0x00FF#16, 0xC202#16, flags 0b100101#6), [0x80#8]) := by decide

theorem test_neg_sp1 :
    ran (holding vectorStart [(0x0100#16, 0x10#8)]) [0x9E#8, 0x60#8, 0x01#8] [0x0100#16] =
      some ((0x00#8, 0x0000#16, 0x00FF#16, 0xC203#16, flags 0b000101#6), [0xF0#8]) := by decide

theorem test_nega :
    ran { vectorStart with a := 0x80#8 } [0x40#8] [] =
      some ((0x80#8, 0x0000#16, 0x00FF#16, 0xC201#16, flags 0b100101#6), []) := by decide

theorem test_negx :
    ran { vectorStart with x := 0x7F#8, h := 0x12#8 } [0x50#8] [] =
      some ((0x00#8, 0x1281#16, 0x00FF#16, 0xC201#16, flags 0b000101#6), []) := by decide

theorem test_cmp_imm :
    ran { vectorStart with a := 0x7F#8 } [0xA1#8, 0xFF#8] [] =
      some ((0x7F#8, 0x0000#16, 0x00FF#16, 0xC202#16, flags 0b100101#6), []) := by decide

theorem test_cmp_dir :
    ran (holding { vectorStart with a := 0x0F#8 } [(0x0080#16, 0x10#8)]) [0xB1#8, 0x80#8] [] =
      some ((0x0F#8, 0x0000#16, 0x00FF#16, 0xC202#16, flags 0b000101#6), []) := by decide

theorem test_cphx_imm :
    ran { vectorStart with h := 0x80#8 } [0x65#8, 0x00#8, 0x01#8] [] =
      some ((0x00#8, 0x8000#16, 0x00FF#16, 0xC203#16, flags 0b100000#6), []) := by decide

theorem test_cphx_sp1 :
    ran (holding { vectorStart with h := 0x01#8 } [(0x0100#16, 0x00#8), (0x0101#16, 0x01#8)]) [0x9E#8, 0xF3#8, 0x01#8] [] =
      some ((0x00#8, 0x0100#16, 0x00FF#16, 0xC203#16, flags 0b000000#6), []) := by decide

theorem test_cpx_imm :
    ran { vectorStart with x := 0x80#8 } [0xA3#8, 0x01#8] [] =
      some ((0x00#8, 0x0080#16, 0x00FF#16, 0xC202#16, flags 0b100000#6), []) := by decide

theorem test_cpx_dir :
    ran (holding vectorStart [(0x0080#16, 0xFF#8)]) [0xB3#8, 0x80#8] [] =
      some ((0x00#8, 0x0000#16, 0x00FF#16, 0xC202#16, flags 0b000001#6), []) := by decide

theorem test_tst_dir :
    ran (holding vectorStart [(0x0080#16, 0xFF#8)]) [0x3D#8, 0x80#8] [0x0080#16] =
      some ((0x00#8, 0x0000#16, 0x00FF#16, 0xC202#16, flags 0b000100#6), [0xFF#8]) := by decide

theorem test_tst_sp1 :
    ran (holding vectorStart [(0x0100#16, 0x80#8)]) [0x9E#8, 0x6D#8, 0x01#8] [] =
      some ((0x00#8, 0x0000#16, 0x00FF#16, 0xC203#16, flags 0b000100#6), []) := by decide

theorem test_tsta :
    ran { vectorStart with ccr := flags 0b100001#6 } [0x4D#8] [] =
      some ((0x00#8, 0x0000#16, 0x00FF#16, 0xC201#16, flags 0b000011#6), []) := by decide

theorem test_tstx :
    ran { vectorStart with x := 0x7F#8, ccr := flags 0b000001#6 } [0x5D#8] [] =
      some ((0x00#8, 0x007F#16, 0x00FF#16, 0xC201#16, flags 0b000001#6), []) := by decide

/-! ### Logical: vectors of section 2 -/

theorem test_and_imm :
    ran { vectorStart with a := 0x0F#8, ccr := flags 0b100001#6 } [0xA4#8, 0xF0#8] [] =
      some ((0x00#8, 0x0000#16, 0x00FF#16, 0xC202#16, flags 0b000011#6), []) := by decide

theorem test_and_dir :
    ran (holding { vectorStart with a := 0x35#8 } [(0x0080#16, 0x0F#8)]) [0xB4#8, 0x80#8] [] =
      some ((0x05#8, 0x0000#16, 0x00FF#16, 0xC202#16, flags 0b000000#6), []) := by decide

theorem test_ora_imm :
    ran { vectorStart with ccr := flags 0b100000#6 } [0xAA#8, 0x00#8] [] =
      some ((0x00#8, 0x0000#16, 0x00FF#16, 0xC202#16, flags 0b000010#6), []) := by decide

theorem test_ora_imm_again :
    ran { vectorStart with a := 0x01#8, ccr := flags 0b000001#6 } [0xAA#8, 0x80#8] [] =
      some ((0x81#8, 0x0000#16, 0x00FF#16, 0xC202#16, flags 0b000101#6), []) := by decide

theorem test_eor_imm :
    ran { vectorStart with a := 0xFF#8, ccr := flags 0b100001#6 } [0xA8#8, 0xFF#8] [] =
      some ((0x00#8, 0x0000#16, 0x00FF#16, 0xC202#16, flags 0b000011#6), []) := by decide

theorem test_eor_imm_again :
    ran { vectorStart with a := 0x5A#8 } [0xA8#8, 0x03#8] [] =
      some ((0x59#8, 0x0000#16, 0x00FF#16, 0xC202#16, flags 0b000000#6), []) := by decide

theorem test_com_dir :
    ran (holding vectorStart [(0x0080#16, 0x55#8)]) [0x33#8, 0x80#8] [0x0080#16] =
      some ((0x00#8, 0x0000#16, 0x00FF#16, 0xC202#16, flags 0b000101#6), [0xAA#8]) := by decide

theorem test_com_sp1 :
    ran (holding vectorStart [(0x0100#16, 0xA5#8)]) [0x9E#8, 0x63#8, 0x01#8] [0x0100#16] =
      some ((0x00#8, 0x0000#16, 0x00FF#16, 0xC203#16, flags 0b000001#6), [0x5A#8]) := by decide

theorem test_coma :
    ran { vectorStart with a := 0xFF#8, ccr := flags 0b100000#6 } [0x43#8] [] =
      some ((0x00#8, 0x0000#16, 0x00FF#16, 0xC201#16, flags 0b000011#6), []) := by decide

theorem test_comx :
    ran { vectorStart with x := 0x0F#8, h := 0x12#8 } [0x53#8] [] =
      some ((0x00#8, 0x12F0#16, 0x00FF#16, 0xC201#16, flags 0b000101#6), []) := by decide

theorem test_bit_imm :
    ran { vectorStart with a := 0xC0#8, ccr := flags 0b100001#6 } [0xA5#8, 0x0F#8] [] =
      some ((0xC0#8, 0x0000#16, 0x00FF#16, 0xC202#16, flags 0b000011#6), []) := by decide

theorem test_bit_dir :
    ran (holding vectorStart [(0x0080#16, 0xFF#8)]) [0xB5#8, 0x80#8] [] =
      some ((0x00#8, 0x0000#16, 0x00FF#16, 0xC202#16, flags 0b000010#6), []) := by decide

/-! ### Shifts and rotates: vectors of section 2 -/

theorem test_lsl_dir :
    ran (holding vectorStart [(0x0080#16, 0xC3#8)]) [0x38#8, 0x80#8] [0x0080#16] =
      some ((0x00#8, 0x0000#16, 0x00FF#16, 0xC202#16, flags 0b000101#6), [0x86#8]) := by decide

theorem test_lsl_sp1 :
    ran (holding vectorStart [(0x0100#16, 0x01#8)]) [0x9E#8, 0x68#8, 0x01#8] [0x0100#16] =
      some ((0x00#8, 0x0000#16, 0x00FF#16, 0xC203#16, flags 0b000000#6), [0x02#8]) := by decide

theorem test_lsla :
    ran { vectorStart with a := 0x40#8 } [0x48#8] [] =
      some ((0x80#8, 0x0000#16, 0x00FF#16, 0xC201#16, flags 0b100100#6), []) := by decide

theorem test_lslx :
    ran { vectorStart with x := 0x81#8, h := 0x12#8 } [0x58#8] [] =
      some ((0x00#8, 0x1202#16, 0x00FF#16, 0xC201#16, flags 0b100001#6), []) := by decide

theorem test_lsr_dir :
    ran (holding vectorStart [(0x0080#16, 0x01#8)]) [0x34#8, 0x80#8] [0x0080#16] =
      some ((0x00#8, 0x0000#16, 0x00FF#16, 0xC202#16, flags 0b100011#6), [0x00#8]) := by decide

theorem test_lsr_sp1 :
    ran (holding vectorStart [(0x0100#16, 0x02#8)]) [0x9E#8, 0x64#8, 0x01#8] [0x0100#16] =
      some ((0x00#8, 0x0000#16, 0x00FF#16, 0xC203#16, flags 0b000000#6), [0x01#8]) := by decide

theorem test_lsra :
    ran { vectorStart with a := 0xFF#8 } [0x44#8] [] =
      some ((0x7F#8, 0x0000#16, 0x00FF#16, 0xC201#16, flags 0b100001#6), []) := by decide

theorem test_lsrx :
    ran { vectorStart with x := 0x81#8, h := 0x12#8 } [0x54#8] [] =
      some ((0x00#8, 0x1240#16, 0x00FF#16, 0xC201#16, flags 0b100001#6), []) := by decide

theorem test_asr_dir :
    ran (holding vectorStart [(0x0080#16, 0x81#8)]) [0x37#8, 0x80#8] [0x0080#16] =
      some ((0x00#8, 0x0000#16, 0x00FF#16, 0xC202#16, flags 0b000101#6), [0xC0#8]) := by decide

theorem test_asr_sp1 :
    ran (holding vectorStart [(0x0100#16, 0xFE#8)]) [0x9E#8, 0x67#8, 0x01#8] [0x0100#16] =
      some ((0x00#8, 0x0000#16, 0x00FF#16, 0xC203#16, flags 0b100100#6), [0xFF#8]) := by decide

theorem test_asra :
    ran { vectorStart with a := 0xC0#8 } [0x47#8] [] =
      some ((0xE0#8, 0x0000#16, 0x00FF#16, 0xC201#16, flags 0b100100#6), []) := by decide

theorem test_asrx :
    ran { vectorStart with x := 0x81#8, h := 0x12#8 } [0x57#8] [] =
      some ((0x00#8, 0x12C0#16, 0x00FF#16, 0xC201#16, flags 0b000101#6), []) := by decide

theorem test_rol_dir :
    ran (holding { vectorStart with ccr := flags 0b000001#6 } [(0x0080#16, 0x5A#8)]) [0x39#8, 0x80#8] [0x0080#16] =
      some ((0x00#8, 0x0000#16, 0x00FF#16, 0xC202#16, flags 0b100100#6), [0xB5#8]) := by decide

theorem test_rol_sp1 :
    ran (holding vectorStart [(0x0100#16, 0x80#8)]) [0x9E#8, 0x69#8, 0x01#8] [0x0100#16] =
      some ((0x00#8, 0x0000#16, 0x00FF#16, 0xC203#16, flags 0b100011#6), [0x00#8]) := by decide

theorem test_rola :
    ran { vectorStart with a := 0x80#8, ccr := flags 0b000001#6 } [0x49#8] [] =
      some ((0x01#8, 0x0000#16, 0x00FF#16, 0xC201#16, flags 0b100001#6), []) := by decide

theorem test_rolx :
    ran { vectorStart with x := 0x81#8, h := 0x12#8, ccr := flags 0b000001#6 } [0x59#8] [] =
      some ((0x00#8, 0x1203#16, 0x00FF#16, 0xC201#16, flags 0b100001#6), []) := by decide

theorem test_ror_dir :
    ran (holding { vectorStart with ccr := flags 0b000001#6 } [(0x0080#16, 0x5A#8)]) [0x36#8, 0x80#8] [0x0080#16] =
      some ((0x00#8, 0x0000#16, 0x00FF#16, 0xC202#16, flags 0b100100#6), [0xAD#8]) := by decide

theorem test_ror_sp1 :
    ran (holding vectorStart [(0x0100#16, 0x01#8)]) [0x9E#8, 0x66#8, 0x01#8] [0x0100#16] =
      some ((0x00#8, 0x0000#16, 0x00FF#16, 0xC203#16, flags 0b100011#6), [0x00#8]) := by decide

theorem test_rora :
    ran { vectorStart with a := 0x01#8, ccr := flags 0b000001#6 } [0x46#8] [] =
      some ((0x80#8, 0x0000#16, 0x00FF#16, 0xC201#16, flags 0b000101#6), []) := by decide

theorem test_rorx :
    ran { vectorStart with x := 0x81#8, h := 0x12#8, ccr := flags 0b000001#6 } [0x56#8] [] =
      some ((0x00#8, 0x12C0#16, 0x00FF#16, 0xC201#16, flags 0b000101#6), []) := by decide

/-! ### Jump and branches: vectors of section 2 -/

theorem test_jmp_ix2 :
    ran { vectorStart with x := 0x02#8 } [0xDC#8, 0xFF#8, 0xFF#8] [] =
      some ((0x00#8, 0x0002#16, 0x00FF#16, 0x0001#16, flags 0b000000#6), []) := by decide

theorem test_jmp_ix1 :
    ran { vectorStart with x := 0x80#8, h := 0xFF#8 } [0xEC#8, 0xFF#8] [] =
      some ((0x00#8, 0xFF80#16, 0x00FF#16, 0x007F#16, flags 0b000000#6), []) := by decide

theorem test_bra :
    ran vectorStart [0x20#8, 0x80#8] [] =
      some ((0x00#8, 0x0000#16, 0x00FF#16, 0xC182#16, flags 0b000000#6), []) := by decide

theorem test_bra_again :
    ran { vectorStart with pc := 0xFFF8#16 } [0x20#8, 0x10#8] [] =
      some ((0x00#8, 0x0000#16, 0x00FF#16, 0x000A#16, flags 0b000000#6), []) := by decide

theorem test_brn :
    ran vectorStart [0x21#8, 0x10#8] [] =
      some ((0x00#8, 0x0000#16, 0x00FF#16, 0xC202#16, flags 0b000000#6), []) := by decide

theorem test_bhi :
    ran vectorStart [0x22#8, 0x10#8] [] =
      some ((0x00#8, 0x0000#16, 0x00FF#16, 0xC212#16, flags 0b000000#6), []) := by decide

theorem test_bhi_again :
    ran { vectorStart with ccr := flags 0b000001#6 } [0x22#8, 0x10#8] [] =
      some ((0x00#8, 0x0000#16, 0x00FF#16, 0xC202#16, flags 0b000001#6), []) := by decide

theorem test_bls :
    ran vectorStart [0x23#8, 0x10#8] [] =
      some ((0x00#8, 0x0000#16, 0x00FF#16, 0xC202#16, flags 0b000000#6), []) := by decide

theorem test_bls_again :
    ran { vectorStart with ccr := flags 0b000010#6 } [0x23#8, 0x10#8] [] =
      some ((0x00#8, 0x0000#16, 0x00FF#16, 0xC212#16, flags 0b000010#6), []) := by decide

theorem test_bcc :
    ran vectorStart [0x24#8, 0x10#8] [] =
      some ((0x00#8, 0x0000#16, 0x00FF#16, 0xC212#16, flags 0b000000#6), []) := by decide

theorem test_bcc_again :
    ran { vectorStart with ccr := flags 0b000001#6 } [0x24#8, 0x10#8] [] =
      some ((0x00#8, 0x0000#16, 0x00FF#16, 0xC202#16, flags 0b000001#6), []) := by decide

theorem test_bcs :
    ran vectorStart [0x25#8, 0x10#8] [] =
      some ((0x00#8, 0x0000#16, 0x00FF#16, 0xC202#16, flags 0b000000#6), []) := by decide

theorem test_bcs_again :
    ran { vectorStart with ccr := flags 0b000001#6 } [0x25#8, 0x10#8] [] =
      some ((0x00#8, 0x0000#16, 0x00FF#16, 0xC212#16, flags 0b000001#6), []) := by decide

theorem test_bne :
    ran vectorStart [0x26#8, 0x10#8] [] =
      some ((0x00#8, 0x0000#16, 0x00FF#16, 0xC212#16, flags 0b000000#6), []) := by decide

theorem test_bne_again :
    ran { vectorStart with ccr := flags 0b000010#6 } [0x26#8, 0x10#8] [] =
      some ((0x00#8, 0x0000#16, 0x00FF#16, 0xC202#16, flags 0b000010#6), []) := by decide

theorem test_beq :
    ran vectorStart [0x27#8, 0x10#8] [] =
      some ((0x00#8, 0x0000#16, 0x00FF#16, 0xC202#16, flags 0b000000#6), []) := by decide

theorem test_beq_again :
    ran { vectorStart with ccr := flags 0b000010#6 } [0x27#8, 0x10#8] [] =
      some ((0x00#8, 0x0000#16, 0x00FF#16, 0xC212#16, flags 0b000010#6), []) := by decide

theorem test_bhcc :
    ran vectorStart [0x28#8, 0x10#8] [] =
      some ((0x00#8, 0x0000#16, 0x00FF#16, 0xC212#16, flags 0b000000#6), []) := by decide

theorem test_bhcc_again :
    ran { vectorStart with ccr := flags 0b010000#6 } [0x28#8, 0x10#8] [] =
      some ((0x00#8, 0x0000#16, 0x00FF#16, 0xC202#16, flags 0b010000#6), []) := by decide

theorem test_bhcs :
    ran vectorStart [0x29#8, 0x10#8] [] =
      some ((0x00#8, 0x0000#16, 0x00FF#16, 0xC202#16, flags 0b000000#6), []) := by decide

theorem test_bhcs_again :
    ran { vectorStart with ccr := flags 0b010000#6 } [0x29#8, 0x10#8] [] =
      some ((0x00#8, 0x0000#16, 0x00FF#16, 0xC212#16, flags 0b010000#6), []) := by decide

theorem test_bpl :
    ran vectorStart [0x2A#8, 0x10#8] [] =
      some ((0x00#8, 0x0000#16, 0x00FF#16, 0xC212#16, flags 0b000000#6), []) := by decide

theorem test_bpl_again :
    ran { vectorStart with ccr := flags 0b000100#6 } [0x2A#8, 0x10#8] [] =
      some ((0x00#8, 0x0000#16, 0x00FF#16, 0xC202#16, flags 0b000100#6), []) := by decide

theorem test_bmi :
    ran vectorStart [0x2B#8, 0x10#8] [] =
      some ((0x00#8, 0x0000#16, 0x00FF#16, 0xC202#16, flags 0b000000#6), []) := by decide

theorem test_bmi_again :
    ran { vectorStart with ccr := flags 0b000100#6 } [0x2B#8, 0x10#8] [] =
      some ((0x00#8, 0x0000#16, 0x00FF#16, 0xC212#16, flags 0b000100#6), []) := by decide

theorem test_bmc :
    ran vectorStart [0x2C#8, 0x10#8] [] =
      some ((0x00#8, 0x0000#16, 0x00FF#16, 0xC212#16, flags 0b000000#6), []) := by decide

theorem test_bmc_again :
    ran { vectorStart with ccr := flags 0b001000#6 } [0x2C#8, 0x10#8] [] =
      some ((0x00#8, 0x0000#16, 0x00FF#16, 0xC202#16, flags 0b001000#6), []) := by decide

theorem test_bms :
    ran vectorStart [0x2D#8, 0x10#8] [] =
      some ((0x00#8, 0x0000#16, 0x00FF#16, 0xC202#16, flags 0b000000#6), []) := by decide

theorem test_bms_again :
    ran { vectorStart with ccr := flags 0b001000#6 } [0x2D#8, 0x10#8] [] =
      some ((0x00#8, 0x0000#16, 0x00FF#16, 0xC212#16, flags 0b001000#6), []) := by decide

theorem test_bge :
    ran { vectorStart with ccr := flags 0b100000#6 } [0x90#8, 0x10#8] [] =
      some ((0x00#8, 0x0000#16, 0x00FF#16, 0xC202#16, flags 0b100000#6), []) := by decide

theorem test_bge_again :
    ran { vectorStart with ccr := flags 0b100100#6 } [0x90#8, 0x10#8] [] =
      some ((0x00#8, 0x0000#16, 0x00FF#16, 0xC212#16, flags 0b100100#6), []) := by decide

theorem test_blt :
    ran { vectorStart with ccr := flags 0b100000#6 } [0x91#8, 0x10#8] [] =
      some ((0x00#8, 0x0000#16, 0x00FF#16, 0xC212#16, flags 0b100000#6), []) := by decide

theorem test_blt_again :
    ran { vectorStart with ccr := flags 0b100100#6 } [0x91#8, 0x10#8] [] =
      some ((0x00#8, 0x0000#16, 0x00FF#16, 0xC202#16, flags 0b100100#6), []) := by decide

theorem test_bgt :
    ran { vectorStart with ccr := flags 0b100100#6 } [0x92#8, 0x10#8] [] =
      some ((0x00#8, 0x0000#16, 0x00FF#16, 0xC212#16, flags 0b100100#6), []) := by decide

theorem test_bgt_again :
    ran { vectorStart with ccr := flags 0b000010#6 } [0x92#8, 0x10#8] [] =
      some ((0x00#8, 0x0000#16, 0x00FF#16, 0xC202#16, flags 0b000010#6), []) := by decide

theorem test_ble :
    ran { vectorStart with ccr := flags 0b100100#6 } [0x93#8, 0x10#8] [] =
      some ((0x00#8, 0x0000#16, 0x00FF#16, 0xC202#16, flags 0b100100#6), []) := by decide

theorem test_ble_again :
    ran { vectorStart with ccr := flags 0b000010#6 } [0x93#8, 0x10#8] [] =
      some ((0x00#8, 0x0000#16, 0x00FF#16, 0xC212#16, flags 0b000010#6), []) := by decide

/-! ### DAA, the IRQ pin, TXS, second spellings, regions, refusals -/

theorem test_daa_row_6 : ranButV { vectorStart with a := 0xB0#8, ccr := flags 0b010000#6 } [0x72#8] =
    some ((0x16#8, 0x0000#16, 0x00FF#16, 0xC201#16, flags 0b010001#6), []) := by decide

theorem test_daa_row_5_low_end : ranButV { vectorStart with a := 0x9A#8 } [0x72#8] =
    some ((0x00#8, 0x0000#16, 0x00FF#16, 0xC201#16, flags 0b000011#6), []) := by decide

/-- Line 252 of the listing, where TXS is accepted, as 47_referenced_untabled.md R260 reads it. -/
theorem test_txs : ran { vectorStart with x := 0x01#8, params := { Params.reset with acceptTxs := true } } [0x94#8] [] =
    some ((0x00#8, 0x0001#16, 0x0000#16, 0xC201#16, flags 0b000000#6), []) := by decide

/-- The two branches on the pin go opposite ways at one sample. -/
theorem test_irq_pin_branches : (fun t => t.pc) <$> (match exec (.bil 0x10#8) vectorStart with | .next t => some t | _ => none) =
      some (if Config.irqPin 0 then 0xC202#16 else 0xC212#16) ∧
    (fun t => t.pc) <$> (match exec (.bih 0x10#8) vectorStart with | .next t => some t | _ => none) =
      some (if Config.irqPin 0 then 0xC212#16 else 0xC202#16) := by
  cases h : Config.irqPin 0 <;>
    simp [exec, execBil, execBih, branch, branchAddr, irqHigh, State.drawn, State.withPC, vectorStart, State.reset, State.resetWith, nextAddr, h] <;> decide

/-- What `exec` gives for an instruction that the decoder never answers. -/
def execSeen (i : Instr) (s : State) : Option Seen :=
  match exec i s with
  | .next t => some (seen [] t)
  | .fault _ | .refused _ => none

theorem test_second_spellings : execSeen .asla { vectorStart with a := 0x40#8 } =
      some ((0x80#8, 0x0000#16, 0x00FF#16, 0xC201#16, flags 0b100100#6), []) ∧
    execSeen .aslx { vectorStart with x := 0x81#8, h := 0x12#8 } =
      some ((0x00#8, 0x1202#16, 0x00FF#16, 0xC201#16, flags 0b100001#6), []) := by
  refine ⟨?_, ?_⟩ <;> decide

theorem test_second_spellings_memory_branch :
    execSeen (.asl (.dir 0x80#8)) (holding vectorStart [(0x0080#16, 0xC3#8)]) =
      some ((0x00#8, 0x0000#16, 0x00FF#16, 0xC202#16, flags 0b000101#6), []) ∧
    execSeen (.bhs 0x10#8) vectorStart = some ((0x00#8, 0x0000#16, 0x00FF#16, 0xC212#16, flags 0b000000#6), []) ∧
    execSeen (.blo 0x10#8) vectorStart = some ((0x00#8, 0x0000#16, 0x00FF#16, 0xC202#16, flags 0b000000#6), []) := by
  refine ⟨?_, ?_, ?_⟩ <;> decide

/-- Section 2.9: opcodes without a row. -/
theorem test_unlisted_opcodes : refusalOf vectorStart [0x00#8] = some (.unspecifiedOpcode [0x00#8]) ∧
    refusalOf vectorStart [0x8D#8] = some (.unspecifiedOpcode [0x8D#8]) ∧
    refusalOf vectorStart [0x9E#8, 0x9E#8] = some (.unspecifiedOpcode [0x9E#8, 0x9E#8]) ∧
    refusalOf vectorStart [0x9E#8, 0xAF#8] = some (.unspecifiedOpcode [0x9E#8, 0xAF#8]) := by decide

/-- A state of a platform with IO at $0080 to $0087, NVM at $0090 to $009F, nothing at $00A0 to $00AF, RAM elsewhere, and the program
text at $C200 to $C20F. -/
def board : State :=
  { vectorStart with
    params :=
      { Params.reset with
        regions := [⟨⟨0x0080#16, 0x0087#16⟩, .io⟩, ⟨⟨0x0090#16, 0x009F#16⟩, .nvm⟩, ⟨⟨0x00A0#16, 0x00AF#16⟩, .none⟩]
        programText := [⟨0xC200#16, 0xC20F#16⟩] } }

/-- The same with every switch the other way. -/
def strictBoard : State :=
  { board with params := { board.params with refuseHighOffsets := true, cautiousFlags := true, refuseNvmWrite := true, acceptTxs := true } }

theorem test_store_refusals : refusalOf board [0xB7#8, 0xA0#8] = some (.unmappedAccess 0x00A0#16) ∧
    refusalOf board [0xC7#8, 0xC2#8, 0x00#8] = some (.writeToProgramText 0xC200#16) ∧
    refusalOf strictBoard [0xB7#8, 0x90#8] = some (.nvmWrite 0x0090#16) ∧ refusalOf board [0x94#8] = some (.unspecifiedOpcode [0x94#8]) ∧
    refusalOf strictBoard [0xE6#8, 0x80#8] = some (.highOffset 0x80#8) := by decide

/-- A store to NVM completes, leaves the byte, and sets the flags from A. -/
theorem test_store_to_nvm : ran { holding board [(0x0090#16, 0xAA#8)] with a := 0x55#8 } [0xB7#8, 0x90#8] [0x0090#16] =
    some ((0x55#8, 0x0000#16, 0x00FF#16, 0xC202#16, flags 0b000000#6), [0xAA#8]) := by decide

/-- A reset with a program loaded and its address at $FFFE:$FFFF starts the program (R291; the listing's first instruction, line 228). -/
theorem test_reset_vector :
    (match step (State.resetWith [(0xC089, 0xA6#8), (0xC08A, 0x55#8), (0xFFFE, 0xC0#8), (0xFFFF, 0x89#8)] Params.reset) with
      | .next t => some (t.a, t.pc)
      | _ => none) = some (0x55#8, 0xC08B#16) := by decide

/-- `withFetchWord` makes the next step run the word. -/
theorem test_with_fetch_word : (match step (State.reset.withFetchWord 16 0x55A6) with | .next t => some (t.a, t.pc) | _ => none) =
    some (0x55#8, 0x0002#16) := by decide

/-! ### Witnesses: encoding and the step -/

theorem witness_decodeEncodeRoundTrip : (Instr.ldhx (.mem (.ix1 0xFF#8))).wf = true ∧ (Instr.blo 0x80#8).wf = true := by decide

theorem witness_decodedBytesAreItsEncoding : decode [0x9E#8, 0xFF#8, 0xFF#8, 0x00#8] = .ok (.sthx (.sp1 0xFF#8), [0x00#8]) := rfl

theorem witness_unlistedOpcodesRefused :
    (0x00#8 ∈ unlistedPage1 ∧ 0xFD#8 ∈ unlistedPage1) ∧
    ((0x10#8 ≠ preByte ∧ 0x10#8 ∉ unlistedPage1) ∧ 0xFF#8 ≠ preByte ∧ 0xFF#8 ∉ unlistedPage1 ∧ 2 ≤ [0x00#8, 0x00#8].length) ∧
    (0x00#8 ∉ listedPage2 ∧ 0xAF#8 ∉ listedPage2) ∧ (0x60#8 ∈ listedPage2 ∧ 0xFF#8 ∈ listedPage2) ∧
    (vectorStart.params.haltAddr ≠ some vectorStart.pc ∧ PlainAt vectorStart vectorStart.pc ∧ vectorStart.byteAt vectorStart.pc ∈ unlistedPage1) ∧
    (let s := holding vectorStart [(0xC200#16, 0x9E#8)]
     s.params.haltAddr ≠ some s.pc ∧ PlainAt s s.pc ∧ PlainAt s (s.pc + 1) ∧ s.byteAt s.pc = preByte ∧ s.byteAt (s.pc + 1) ∉ listedPage2) := by
  decide

/-- A state with LDA #$55 at pc. -/
def loadState : State := holding vectorStart [(0xC200#16, 0xA6#8), (0xC201#16, 0x55#8)]

theorem witness_stepRunsDecodedInstruction : loadState.params.haltAddr ≠ some loadState.pc ∧
    fetch loadState = .next ([0xA6#8, 0x55#8], loadState) ∧ decode [0xA6#8, 0x55#8] = .ok (.lda (.imm 0x55#8), []) :=
  ⟨by decide, rfl, rfl⟩

/-- The same with the operand byte at an IO location: the platform sees one read, and the operand is what it answers. -/
theorem witness_stepRunsDecodedInstruction_io :
    let s := holding { board with pc := 0x007F#16 } [(0x007F#16, 0xA6#8)]
    let b := loadValue 0x0080#16 s
    s.params.haltAddr ≠ some s.pc ∧ fetch s = .next ([0xA6#8, b], { s with ioLog := [.read 0x0080#16 b], draws := 1 }) ∧
      decode [0xA6#8, b] = .ok (.lda (.imm b), []) :=
  ⟨by decide, rfl, rfl⟩

theorem witness_stepRunsStoredInstruction : loadState.params.haltAddr ≠ some loadState.pc ∧ (Instr.lda (.imm 0x55#8)).wf = true ∧
    BytesAt loadState loadState.pc (encode (.lda (.imm 0x55#8))) :=
  ⟨by decide, rfl, .inl rfl, rfl, .inl rfl, rfl, trivial⟩

theorem witness_stepStopsBeforeInstruction :
    (let s := { vectorStart with params := { Params.reset with haltAddr := some 0xC200#16 } }
     s.params.haltAddr = some s.pc) ∧
    (let s := { board with pc := 0x00A0#16 }
     s.params.haltAddr ≠ some s.pc ∧ s.region s.pc = .none) := by decide

theorem witness_pcAfterInstruction :
    ((Instr.jmp .ix).wf = true ∧ ∃ t, exec (.jmp .ix) vectorStart = .next t) ∧
    ((Instr.bcc 0x80#8).wf = true ∧ ∃ t, exec (.bcc 0x80#8) vectorStart = .next t) ∧
    ((Instr.lda (.mem (.sp2 0xFFFF#16))).wf = true ∧
      ∃ t, exec (.lda (.mem (.sp2 0xFFFF#16))) { vectorStart with pc := 0xFFFE#16 } = .next t) :=
  ⟨⟨rfl, _, rfl⟩, ⟨rfl, _, rfl⟩, rfl, _, rfl⟩

/-! ### Witnesses: memory -/

theorem witness_regionBehaviour :
    (PlainAt board 0x0088#16 ∧ PlainAt board 0x0090#16 ∧ PlainAt board 0x009F#16) ∧ (board.region 0x0080#16 = .io ∧ board.region 0x0087#16 = .io) ∧
    (board.region 0x00A0#16 = .none ∧ board.region 0x00AF#16 = .none) ∧ (Writable board 0x00B0#16 ∧ Writable board 0xC210#16 ∧ board.mem.wf = true) ∧
    (board.region 0x0090#16 = .nvm ∧ board.inProgramText 0x0090#16 = false ∧ board.params.refuseNvmWrite = false) ∧
    (board.region 0x0080#16 = .io ∧ board.inProgramText 0x0080#16 = false) := by decide

theorem witness_ramReadsLatestWrite : board.mem.wf = true ∧ Writable board 0xFFFF#16 ∧ PlainAt board 0xFFFF#16 ∧ PlainAt board 0x0000#16 := by
  decide

theorem witness_storeRefusals :
    board.region 0x00A0#16 = .none ∧ (board.region 0xC20F#16 ≠ .none ∧ board.inProgramText 0xC20F#16 = true) ∧
    (strictBoard.region 0x009F#16 = .nvm ∧ strictBoard.inProgramText 0x009F#16 = false ∧ strictBoard.params.refuseNvmWrite = true) ∧
    (board.region 0x0090#16 ≠ .none ∧ board.inProgramText 0x0090#16 = false ∧
      (board.region 0x0090#16 = .nvm → board.params.refuseNvmWrite = false)) := by decide

/-- A state whose step is STA $FF, which stores A = $05. -/
def storeState : State := holding { vectorStart with a := 0x05#8 } [(0xC200#16, 0xB7#8), (0xC201#16, 0xFF#8)]

/-- For MemoryStaysCanonical, StepChangesOnlyRam and ParametersConstant. -/
theorem witness_every_step : storeState.mem.wf = true ∧ ∃ t, step storeState = .next t ∧ t.byteAt 0x00FF#16 ≠ storeState.byteAt 0x00FF#16 :=
  ⟨by decide, _, rfl, by decide⟩

theorem witness_storesTouchOnlyTheirBytes :
    (∃ t, exec (.sta (.dir 0xFF#8)) vectorStart = .next t) ∧ ∀ a, Access.write a ∈ accesses (.sta (.dir 0xFF#8)) vectorStart → 0x0100#16 ≠ a :=
  ⟨⟨_, rfl⟩, fun a h => by
    have h : a = 0x00FF#16 := by simpa [accesses, modeAddr, zext16] using h
    subst h; decide⟩

theorem witness_platformSeesAccessesInOrder : ∃ t, exec (.inc (.dir 0x80#8)) board = .next t ∧ t.ioLog.length = 2 := ⟨_, rfl, rfl⟩

theorem witness_refusedAccesses :
    (firstRefusal (.mov (.dirDir 0xA0#8 0xFF#8)) board = some (.unmappedAccess 0x00A0#16) ∧
      firstRefusal (.sthx (.ext 0xC1FF#16)) board = some (.writeToProgramText 0xC200#16) ∧
      firstRefusal (.bset 7 0x9F#8) strictBoard = some (.nvmWrite 0x009F#16) ∧
      firstRefusal (.jmp (.ix1 0x80#8)) strictBoard = some (.highOffset 0x80#8)) ∧
    (firstRefusal (.clr (.dir 0x9F#8)) board = none ∧ firstRefusal .txs strictBoard = none ∧ strictBoard.params.acceptTxs = true) ∧
    (modeRefusal (.dir 0x90#8) strictBoard = none ∧ strictBoard.region (modeAddr (.dir 0x90#8) strictBoard) = .nvm ∧
      strictBoard.inProgramText (modeAddr (.dir 0x90#8) strictBoard) = false ∧ strictBoard.params.refuseNvmWrite = true) ∧
    (modeRefusal (.dir 0xA0#8) board = none ∧ board.region (modeAddr (.dir 0xA0#8) board) = .none) ∧
    (modeRefusal (.dir 0x9F#8) board = none ∧ board.region (modeAddr (.dir 0x9F#8) board) ≠ .none ∧
      board.region (modeAddr (.dir 0x9F#8) board + 1) = .none ∧ storeRefusal (modeAddr (.dir 0x9F#8) board) board = none) ∧
    (modeRefusal (.ext 0xC20F#16) board = none ∧ board.region (modeAddr (.ext 0xC20F#16) board) ≠ .none ∧
      board.inProgramText (modeAddr (.ext 0xC20F#16) board) = true) ∧
    (strictBoard.params.refuseHighOffsets = true ∧ 128 ≤ (0x80#8).toNat ∧ 128 ≤ (0xFF#8).toNat) := by decide

/-! ### Witnesses: instructions -/

theorem witness_registerWriteTable : ∃ t, exec .tsta vectorStart = .next t ∧
    Instr.tsta.writesA = false ∧ Instr.tsta.writesX = false ∧ Instr.tsta.writesH = false ∧ Instr.tsta.writesSP = false :=
  ⟨_, rfl, by decide⟩

theorem witness_ccrEffectsTable : vectorStart.params.cautiousFlags = false ∧ ∃ t, exec .coma vectorStart = .next t := ⟨rfl, _, rfl⟩

/-- For LoadsReplaceRegister, AddSetsFlags, SubtractSetsFlags, CompareSetsFlagsOnly, TestSetsFlagsOnly, LogicalResults and
BranchesDecideComparisons: an immediate, RAM, NVM, IO, and the offsets at the switch. -/
theorem witness_operand8 : Operand8Ready (.imm 0xFF#8) strictBoard ∧ Operand8Ready (.mem (.dir 0x80#8)) board ∧
    Operand8Ready (.mem (.dir 0x9F#8)) board ∧ Operand8Ready (.mem (.ix1 0x7F#8)) strictBoard ∧ Operand8Ready (.mem (.sp1 0xFF#8)) board ∧
    ModeReady (.sp2 0xFFFF#16) board ∧ ModeReady .ix strictBoard := by
  refine ⟨trivial, ?_, ?_, ?_, ?_, ?_, ?_⟩ <;> exact ⟨by decide, by decide⟩

/-- For LdhxLoadsPair, CphxSetsFlagsOnly and BranchesDecideComparisons: an immediate, and two bytes across a region boundary and across the end of memory. -/
theorem witness_operand16 : Operand16Ready (.imm 0xFFFF#16) board ∧ Operand16Ready (.mem (.dir 0x87#8)) board ∧
    Operand16Ready (.mem (.ext 0xFFFF#16)) board := by
  refine ⟨trivial, ?_, ?_⟩ <;> exact ⟨⟨by decide, by decide⟩, by decide⟩

/-- For StoresWriteRegister, IncrementDecrement, ClearMakesZero, NegateTwosComplement, ComplementInverts, ShiftLeftDoubles,
ShiftRightHalves and RotatesThroughCarry: RAM, NVM and IO. -/
theorem witness_store : StoreReady (.dir 0xFF#8) board ∧ StoreReady (.dir 0x90#8) board ∧ StoreReady (.dir 0x87#8) board ∧
    StoreReady (.sp1 0x7F#8) strictBoard := by decide

/-- For SthxStoresPair: across a region boundary and across the end of memory. -/
theorem witness_store16 : Store16Ready (.dir 0x87#8) board ∧ Store16Ready (.ext 0xFFFF#16) board := by decide

theorem witness_bitSetAndClear : storeRefusal (zext16 0x80#8) board = none ∧ storeRefusal (zext16 0x90#8) board = none := by decide

theorem witness_movForms : board.region (zext16 0x80#8) ≠ .none ∧ storeRefusal (zext16 0xFF#8) board = none ∧
    (let s := { board with h := 0xFF#8, x := 0xFF#8 }
     storeRefusal s.hx s = none ∧ s.region s.hx ≠ .none) := by decide

theorem witness_divQuotientOrCarry :
    (let s := { vectorStart with h := 0xFE#8, a := 0xFF#8, x := 0xFF#8 }
     s.h.toNat < s.x.toNat) ∧
    (let s := { vectorStart with h := 0xFF#8, x := 0xFF#8 }
     s.x.toNat ≤ s.h.toNat) ∧ vectorStart.x.toNat ≤ vectorStart.h.toNat := by decide

/-- A state with this A, half carry and C. -/
def daaIn (a : Byte) (h c : Bool) : State := { vectorStart with a := a, ccr := { vectorStart.ccr with h := h, c := c } }

theorem witness_daaFollowsTable :
    InDaaRow (daaIn 0x99#8 false false) false 0 9 false 0 9 ∧ InDaaRow (daaIn 0x8F#8 false false) false 0 8 false 10 15 ∧
    InDaaRow (daaIn 0x93#8 true false) false 0 9 true 0 3 ∧ InDaaRow (daaIn 0xA0#8 false false) false 10 15 false 0 9 ∧
    InDaaRow (daaIn 0x9A#8 false false) false 9 15 false 10 15 ∧ InDaaRow (daaIn 0xA3#8 true false) false 10 15 true 0 3 ∧
    InDaaRow (daaIn 0x29#8 false true) true 0 2 false 0 9 ∧ InDaaRow (daaIn 0x2A#8 false true) true 0 2 false 10 15 ∧
    InDaaRow (daaIn 0x33#8 true true) true 0 3 true 0 3 ∧
    ((daaIn 0x04#8 true false).ccr.h = true ∧ 4 ≤ (daaIn 0x04#8 true false).a.toNat % 16) ∧
    ((daaIn 0x40#8 false true).ccr.c = true ∧ 4 ≤ (daaIn 0x40#8 false true).a.toNat / 16) ∧
    ((daaIn 0x30#8 false true).ccr.c = true ∧ (daaIn 0x30#8 false true).a.toNat / 16 = 3 ∧ (daaIn 0x30#8 false true).ccr.h = false) := by
  decide

theorem witness_daaCorrectsBcdSum : IsBcd (daaIn 0x99#8 false true).a ∧ IsBcd 0x99#8 := by decide

theorem witness_multibyteShifts : (0xFD#8).toNat ≤ 253 ∧ board.mem.wf = true ∧ Writable board (zext16 0xFD#8) ∧
    Writable board (zext16 (0xFD#8 + 1)) ∧ Writable board (zext16 (0xFD#8 + 2)) := by decide

theorem witness_effectiveAddresses : modeRefusal (.ix1 0x7F#8) strictBoard = none ∧ modeRefusal (.ix1 0xFF#8) board = none := by decide

theorem witness_complementaryBranches : (0x01#8 ≠ 0) ∧ (0x80#8 ≠ 0) := by decide

theorem witness_txsMovesIndexToStackPointer : strictBoard.params.acceptTxs = true ∧ board.params.acceptTxs = false := by decide

end Sys2Proof.Tests
end

section
/-! PROOFS. Every step keeps the parameters (O18), an instruction is refused exactly by the first refusal it meets (O22), and TXS (O60).
One case split over the instructions, `exec_completesUnless`, serves the first two. -/
namespace Sys2Proof.Machine

open Sys2Proof

/-! ### Refusals of offsets and accesses -/

theorem accessRefusal_unmapped {s : State} {x : Access} (h : s.region x.addr = .none) :
    accessRefusal s x = some (.unmappedAccess x.addr) := if_pos h

theorem accessRefusal_read {s : State} {a : Addr} (h : s.region a ≠ .none) : accessRefusal s (.read a) = none := by
  simp [accessRefusal, h]

/-- A write access is refused as the store is. -/
theorem accessRefusal_write (s : State) (a : Addr) : accessRefusal s (.write a) = storeRefusal a s := by
  simp [accessRefusal, storeRefusal]

theorem storeRefusal_programText {s : State} {a : Addr} (h : s.region a ≠ .none) (ht : s.inProgramText a = true) :
    storeRefusal a s = some (.writeToProgramText a) := by
  simp [storeRefusal, h, ht]

theorem storeRefusal_nvm {s : State} {a : Addr} (h : s.region a = .nvm) (ht : s.inProgramText a = false)
    (hn : s.params.refuseNvmWrite = true) : storeRefusal a s = some (.nvmWrite a) := by
  simp [storeRefusal, h, ht, hn]

/-- The sign bit of a byte says that it is `$80` to `$FF`. -/
theorem byte_msb_iff (b : Byte) : b.msb = true ↔ 128 ≤ b.toNat := by
  simp [BitVec.msb_eq_decide]

/-- Of an instruction with a memory mode, the offset is refused as the mode is. -/
theorem offsetRefusal_eq_modeRefusal {i : Instr} {m : Mode} (s : State) (h : modeOf i = some m) :
    offsetRefusal i s = modeRefusal m s := by
  cases m <;> simp [offsetRefusal, modeRefusal, h, byte_msb_iff]

theorem modeRefusal_high {s : State} {ff : Byte} (hs : s.params.refuseHighOffsets = true) (hf : 128 ≤ ff.toNat) :
    modeRefusal (.ix1 ff) s = some (.highOffset ff) ∧ modeRefusal (.sp1 ff) s = some (.highOffset ff) := by
  simp [modeRefusal, hs, (byte_msb_iff ff).mpr hf]

/-- The first refusal of a mode's offset and then of these accesses. -/
def refusalVia (m : Mode) (xs : List Access) (s : State) : Option Refusal :=
  (modeRefusal m s).or (xs.findSome? (accessRefusal s))

theorem refusalVia_highOffset {m : Mode} {s : State} {r : Refusal} (xs : List Access) (h : modeRefusal m s = some r) :
    refusalVia m xs s = some r := by
  simp [refusalVia, h]

theorem refusalVia_accesses {m : Mode} {s : State} (xs : List Access) (h : modeRefusal m s = none) :
    refusalVia m xs s = xs.findSome? (accessRefusal s) := by
  simp [refusalVia, h]

/-- The first refusal of an instruction with a memory mode is that of the mode's offset, then of its accesses. -/
theorem firstRefusal_of_mode {i : Instr} {m : Mode} {s : State} (h : modeOf i = some m) :
    firstRefusal i s = refusalVia m (accesses i s) s := by
  rw [firstRefusal, offsetRefusal_eq_modeRefusal s h, refusalVia]
  cases modeRefusal m s <;> rfl

/-! ### Sequencing -/

theorem andThen_assoc {α β γ : Type} (r : Result α) (f : α → Result β) (g : β → Result γ) :
    andThen (andThen r f) g = andThen r fun x => andThen (f x) g := by
  cases r <;> rfl

/-! ### Outcomes: refused, or completed with the same parameters -/

/-- `x` is what an instruction on `s` whose first refusal is `r` should answer: that refusal where there is one, else a next state with
the parameters of `s`. -/
def CompletesUnless (s : State) (r : Option Refusal) (x : Result State) : Prop :=
  match r with
  | some e => x = .refused e
  | none => ∃ t, x = .next t ∧ t.params = s.params

theorem CompletesUnless.refused {s : State} {r : Option Refusal} {x : Result State} {e : Refusal} (hx : CompletesUnless s r x)
    (h : r = some e) : x = .refused e := by
  subst h; exact hx

theorem CompletesUnless.completes {s : State} {r : Option Refusal} {x : Result State} (hx : CompletesUnless s r x) (h : r = none) :
    ∃ t, x = .next t ∧ t.params = s.params := by
  subst h; exact hx

/-- A next state, where one is answered, has the same parameters. -/
theorem CompletesUnless.params_eq {s t : State} {r : Option Refusal} {x : Result State} (hx : CompletesUnless s r x) (h : x = .next t) :
    t.params = s.params := by
  cases r with
  | some e => exact absurd (h.symm.trans (hx.refused rfl)) (by simp)
  | none =>
    obtain ⟨u, hu, hp⟩ := hx.completes rfl
    cases h.symm.trans hu
    exact hp

theorem CompletesUnless.next {s t : State} (h : t.params = s.params) : CompletesUnless s none (.next t) := ⟨t, rfl, h⟩

/-- A mode's offset is checked before what follows. -/
theorem CompletesUnless.afterOffset {m : Mode} {s : State} {xs : List Access} {f : Addr → Result State}
    (hf : CompletesUnless s (xs.findSome? (accessRefusal s)) (f (modeAddr m s))) :
    CompletesUnless s (refusalVia m xs s) (andThen (effAddr m s) f) := by
  cases h : modeRefusal m s with
  | some r => rw [refusalVia_highOffset xs h]; simp [effAddr, h, CompletesUnless]
  | none => rw [refusalVia_accesses xs h, effAddr_ready h]; exact hf

/-- A read at a state with the same parameters, and what follows it. -/
theorem CompletesUnless.afterRead {s t : State} {a : Addr} {xs : List Access} {f : Byte × State → Result State}
    (ht : t.params = s.params) (hf : ∀ v u, u.params = s.params → CompletesUnless s (xs.findSome? (accessRefusal s)) (f (v, u))) :
    CompletesUnless s ((Access.read a :: xs).findSome? (accessRefusal s)) (andThen (memRead a t) f) := by
  rw [memRead_accessRefusal ht, List.findSome?_cons]
  cases accessRefusal s (.read a) with
  | some r => rfl
  | none => exact hf _ _ (by simp [ht])

/-- A write at a state with the same parameters, and what follows it. -/
theorem CompletesUnless.afterWrite {s t : State} {a : Addr} {v : Byte} {xs : List Access} {f : State → Result State}
    (ht : t.params = s.params) (hf : ∀ u, u.params = s.params → CompletesUnless s (xs.findSome? (accessRefusal s)) (f u)) :
    CompletesUnless s ((Access.write a :: xs).findSome? (accessRefusal s)) (andThen (memWrite a v t) f) := by
  rw [memWrite_accessRefusal ht, List.findSome?_cons]
  cases accessRefusal s (.write a) with
  | some r => rfl
  | none => exact hf _ (by simp [ht])

/-! ### The shared patterns of the instructions -/

/-- An instruction that only reads a memory byte, with an effect that leaves the parameters alone. -/
theorem withOperand8_mem_completesUnless {f : Byte → State → State} {m : Mode} {i : Instr} {s : State}
    (hi : firstRefusal i s = refusalVia m [.read (modeAddr m s)] s) (hf : ∀ b u, (f b u).params = u.params) :
    CompletesUnless s (firstRefusal i s) (withOperand8 (.mem m) f i s) := by
  rw [hi, withOperand8, readOperand8, andThen_assoc]
  exact .afterOffset (.afterRead rfl fun v u hu => .next ((hf v u).trans hu))

/-- An instruction that only reads an 8-bit operand, immediate or in memory. -/
theorem withOperand8_completesUnless {f : Byte → State → State} {o : Operand8} {i : Instr} {s : State}
    (himm : ∀ ii, o = .imm ii → firstRefusal i s = none)
    (hmem : ∀ m, o = .mem m → firstRefusal i s = refusalVia m [.read (modeAddr m s)] s)
    (hf : ∀ b u, (f b u).params = u.params) : CompletesUnless s (firstRefusal i s) (withOperand8 o f i s) := by
  cases o with
  | imm ii => rw [himm ii rfl]; exact .next (hf ii s)
  | mem m => exact withOperand8_mem_completesUnless (hmem m rfl) hf

/-- The same with a 16-bit operand: two reads. -/
theorem withOperand16_completesUnless {f : Addr → State → State} {o : Operand16} {i : Instr} {s : State}
    (himm : ∀ jjkk, o = .imm jjkk → firstRefusal i s = none)
    (hmem : ∀ m, o = .mem m → firstRefusal i s = refusalVia m [.read (modeAddr m s), .read (modeAddr m s + 1)] s)
    (hf : ∀ w u, (f w u).params = u.params) : CompletesUnless s (firstRefusal i s) (withOperand16 o f i s) := by
  cases o with
  | imm jjkk => rw [himm jjkk rfl]; exact .next (hf jjkk s)
  | mem m =>
    simp only [hmem m rfl, withOperand16, readOperand16, memRead16, andThen_assoc]
    exact .afterOffset (.afterRead rfl fun _ u hu => .afterRead hu fun _ u' hu' => .next ((hf _ u').trans hu'))

/-- The memory form of a read-modify-write instruction: a read and a write of the same byte. -/
theorem rmwMem_completesUnless {op : UnaryOp} {m : Mode} {i : Instr} {s : State}
    (hi : firstRefusal i s = refusalVia m [.read (modeAddr m s), .write (modeAddr m s)] s)
    (hop : ∀ b u, (op b u).2.params = u.params) : CompletesUnless s (firstRefusal i s) (rmwMem op m i s) := by
  rw [hi]
  exact .afterOffset (.afterRead rfl fun v u hu => .afterWrite ((hop v u).trans hu) fun _ hw => .next hw)

/-- A store of a byte, then an effect that leaves the parameters alone. -/
theorem storeMode_completesUnless {m : Mode} {v : Byte} {i : Instr} {f : State → Result State} {s : State}
    (hi : firstRefusal i s = refusalVia m [.write (modeAddr m s)] s)
    (hf : ∀ u, u.params = s.params → CompletesUnless s none (f u)) :
    CompletesUnless s (firstRefusal i s) (andThen (storeMode m v s) f) := by
  rw [hi, storeMode, andThen_assoc]
  exact .afterOffset (.afterWrite rfl hf)

/-- A store of two bytes, then an effect that leaves the parameters alone. -/
theorem storeMode16_completesUnless {m : Mode} {v : Addr} {i : Instr} {f : State → Result State} {s : State}
    (hi : firstRefusal i s = refusalVia m [.write (modeAddr m s), .write (modeAddr m s + 1)] s)
    (hf : ∀ u, u.params = s.params → CompletesUnless s none (f u)) :
    CompletesUnless s (firstRefusal i s) (andThen (storeMode16 m v s) f) := by
  simp only [hi, storeMode16, memWrite16, andThen_assoc]
  exact .afterOffset (.afterWrite rfl fun _ hu => .afterWrite hu hf)

/-- The write of a MOV, then an effect that leaves the parameters alone. -/
theorem moveTo_completesUnless {s t : State} {a : Addr} {v : Byte} {f : State → Result State} (ht : t.params = s.params)
    (hf : ∀ u, u.params = s.params → CompletesUnless s none (f u)) :
    CompletesUnless s ([Access.write a].findSome? (accessRefusal s)) (andThen (moveTo a v t) f) := by
  rw [moveTo, andThen_assoc]
  exact .afterWrite ht fun u hu => hf _ hu

theorem execMov_completesUnless (f : MovForm) (s : State) : CompletesUnless s (firstRefusal (.mov f) s) (execMov f s) := by
  cases f with
  | dirDir src dst => exact .afterRead rfl fun _ _ hu => moveTo_completesUnless hu fun _ hw => .next hw
  | dirIxp dd => exact .afterRead rfl fun _ _ hu => moveTo_completesUnless hu fun _ hw => .next hw
  | immDir ii dd => exact moveTo_completesUnless rfl fun _ hw => .next hw
  | ixpDir dd => exact .afterRead rfl fun _ _ hu => moveTo_completesUnless hu fun _ hw => .next hw

/-! ### The operations leave the parameters alone -/

@[simp] theorem incOp_params (b : Byte) (u : State) : (incOp b u).2.params = u.params := cautiousC_params _
@[simp] theorem decOp_params (b : Byte) (u : State) : (decOp b u).2.params = u.params := cautiousC_params _
@[simp] theorem negOp_params (b : Byte) (u : State) : (negOp b u).2.params = u.params := rfl
@[simp] theorem comOp_params (b : Byte) (u : State) : (comOp b u).2.params = u.params := rfl
@[simp] theorem clearedFlags_params (u : State) : (clearedFlags u).params = u.params := cautiousC_params _
@[simp] theorem testFlags_params (b : Byte) (u : State) : (testFlags b u).params = u.params := cautiousC_params _
@[simp] theorem shiftTo_params (r : Byte) (out : Bool) (u : State) : (shiftTo r out u).2.params = u.params := cautiousV_params _

theorem divResult_params (s : State) : (if divFails s then divOpen s else divDone s).params = s.params := by
  split <;> rfl

/-! ### TXS -/

theorem execTxs_accepted {s : State} (h : s.params.acceptTxs = true) : execTxs s = finish .txs (s.withSP (s.hx - 1)) := if_pos h

theorem execTxs_refused {s : State} (h : s.params.acceptTxs = false) : execTxs s = .refused (.unspecifiedOpcode [0x94#8]) := by
  simp [execTxs, h]

/-- H:X minus one as an integer modulo 2^16. -/
theorem State.hx_sub_one (s : State) : s.hx - 1 = BitVec.ofInt 16 (256 * (s.h.toNat : Int) + s.x.toNat - 1) := by
  have hh := s.h.isLt
  have hx := s.x.isLt
  have h1 : BitVec.toNat (1 : Addr) = 1 := rfl
  apply BitVec.eq_of_toNat_eq
  rw [BitVec.toNat_sub, State.hx, toNat_joinBytes, BitVec.toNat_ofInt, h1]
  omega

/-- Settles O60, by cases on the switch. -/
theorem txsMovesIndexToStackPointer : Obligations.TxsMovesIndexToStackPointer := by
  refine ⟨fun s h => ?_, fun s h => execTxs_refused h⟩
  rw [exec, execTxs_accepted h, finish, s.hx_sub_one]
  rfl

/-! ### Every instruction -/

/-- Every instruction, TXS where it is accepted: refused by its first refusal, else completed with the same parameters. -/
theorem exec_completesUnless (i : Instr) (s : State) (htxs : i = .txs → s.params.acceptTxs = true) :
    CompletesUnless s (firstRefusal i s) (exec i s) := by
  cases i with
  | lda o | ldx o | adc o | add o | sub o | sbc o | cmp o | cpx o | and o | ora o | eor o | bit o =>
    rw [exec]
    refine withOperand8_completesUnless ?_ ?_ ?_
    · rintro _ rfl; rfl
    · rintro _ rfl; exact firstRefusal_of_mode rfl
    · exact fun _ _ => rfl
  | ldhx o | cphx o =>
    rw [exec]
    refine withOperand16_completesUnless ?_ ?_ ?_
    · rintro _ rfl; rfl
    · rintro _ rfl; exact firstRefusal_of_mode rfl
    · exact fun _ _ => rfl
  | tst m => exact withOperand8_mem_completesUnless (firstRefusal_of_mode rfl) testFlags_params
  | sta m | stx m => exact storeMode_completesUnless (firstRefusal_of_mode rfl) fun _ hu => .next hu
  | sthx m => exact storeMode16_completesUnless (firstRefusal_of_mode rfl) fun _ hu => .next hu
  | bset n dd | bclr n dd => rw [exec]; exact rmwMem_completesUnless rfl fun _ _ => rfl
  | neg m => exact rmwMem_completesUnless (firstRefusal_of_mode rfl) negOp_params
  | com m => exact rmwMem_completesUnless (firstRefusal_of_mode rfl) comOp_params
  | inc m => exact rmwMem_completesUnless (firstRefusal_of_mode rfl) incOp_params
  | dec m => exact rmwMem_completesUnless (firstRefusal_of_mode rfl) decOp_params
  | clr m => exact rmwMem_completesUnless (firstRefusal_of_mode rfl) fun _ => clearedFlags_params
  | lsl m | asl m | lsr m | asr m | rol m | ror m =>
    exact rmwMem_completesUnless (firstRefusal_of_mode rfl) fun _ _ => shiftTo_params ..
  | mov f => exact execMov_completesUnless f s
  | jmp m => rw [firstRefusal_of_mode (m := m) rfl]; exact .afterOffset (.next rfl)
  | inca => exact .next (incOp_params ..)
  | incx => exact .next (incOp_params ..)
  | deca => exact .next (decOp_params ..)
  | decx => exact .next (decOp_params ..)
  | clra | clrx | clrh => exact .next (clearedFlags_params s)
  | tsta | tstx => exact .next (testFlags_params ..)
  | lsla | lslx | asla | aslx | lsra | lsrx | asra | asrx | rola | rolx | rora | rorx => exact .next (shiftTo_params ..)
  | tax | txa | tap | tpa | nsa | ais | aix | mul | daa | nega | negx | coma | comx => exact .next rfl
  | div => exact .next (divResult_params s)
  | bra | brn | bhi | bls | bcc | bhs | bcs | blo | bne | beq | bhcc | bhcs => exact .next rfl
  | bpl | bmi | bmc | bms | bil | bih | bge | blt | bgt | ble => exact .next rfl
  | txs => rw [exec, execTxs_accepted (htxs rfl)]; exact .next rfl

/-- An instruction that completes keeps the parameters; TXS where it is not accepted does not complete. -/
theorem exec_params {i : Instr} {s t : State} (h : exec i s = .next t) : t.params = s.params := by
  refine (exec_completesUnless i s fun htxs => ?_).params_eq h
  cases hacc : s.params.acceptTxs with
  | true => rfl
  | false =>
    rw [htxs, exec, execTxs_refused hacc] at h
    exact absurd h (by simp)

/-! ### The step -/

theorem memRead_params {a : Addr} {s t : State} {b : Byte} (h : memRead a s = .next (b, t)) : t.params = s.params := by
  obtain ⟨-, hp⟩ := memRead_eq_next.mp h
  cases hp
  exact afterLoad_params a s

theorem fetchBytes_params {k : Nat} {a : Addr} {s t : State} {bs : List Byte} (h : fetchBytes k a s = .next (bs, t)) :
    t.params = s.params := by
  induction k generalizing a s t bs with
  | zero => cases h; rfl
  | succ k ih =>
    obtain ⟨⟨b, s1⟩, h1, h⟩ := andThen_eq_next.mp h
    obtain ⟨⟨bs', s2⟩, h2, h⟩ := andThen_eq_next.mp h
    cases h
    exact (ih h2).trans (memRead_params h1)

theorem fetch_params {s t : State} {bs : List Byte} (h : fetch s = .next (bs, t)) : t.params = s.params := by
  obtain ⟨⟨b0, s1⟩, h1, h⟩ := andThen_eq_next.mp h
  dsimp only at h
  split at h
  · obtain ⟨⟨b1, s2⟩, h2, h⟩ := andThen_eq_next.mp h
    obtain ⟨⟨bs', s3⟩, h3, h⟩ := andThen_eq_next.mp h
    cases h
    exact (fetchBytes_params h3).trans ((memRead_params h2).trans (memRead_params h1))
  · obtain ⟨⟨bs', s2⟩, h2, h⟩ := andThen_eq_next.mp h
    cases h
    exact (fetchBytes_params h2).trans (memRead_params h1)

theorem fetchInstr_params {s t : State} {i : Instr} (h : fetchInstr s = .next (i, t)) : t.params = s.params := by
  obtain ⟨⟨bs, s1⟩, h1, h⟩ := andThen_eq_next.mp h
  dsimp only at h
  split at h
  · cases h; exact fetch_params h1
  · exact absurd h (by simp)

/-- A step that answers a next state fetched an instruction and ran it. -/
theorem step_eq_next {s t : State} :
    step s = .next t ↔ s.params.haltAddr ≠ some s.pc ∧ ∃ i s1, fetchInstr s = .next (i, s1) ∧ exec i s1 = .next t := by
  unfold step
  split <;> simp_all [andThen_eq_next]

/-- Settles O18: the fetch and the instruction each keep the parameters. -/
theorem parametersConstant : Obligations.ParametersConstant := by
  intro s t h
  obtain ⟨-, i, s1, hfetch, hexec⟩ := step_eq_next.mp h
  exact (exec_params hexec).trans (fetchInstr_params hfetch)

/-! ### The kinds of refusal -/

/-- An instruction is refused by its first refusal; TXS, which accesses nothing, has none. -/
theorem exec_refused {i : Instr} {s : State} {r : Refusal} (h : firstRefusal i s = some r) : exec i s = .refused r := by
  refine (exec_completesUnless i s ?_).refused h
  rintro rfl
  cases h

/-- An instruction that meets no refusal completes, TXS where it is accepted. -/
theorem exec_completes {i : Instr} {s : State} (h : firstRefusal i s = none) (htxs : i = .txs → s.params.acceptTxs = true) :
    ∃ t, exec i s = .next t := by
  obtain ⟨t, ht, -⟩ := (exec_completesUnless i s htxs).completes h
  exact ⟨t, ht⟩

/-- A load from a mapped location is not refused. -/
theorem exec_lda_ne_refused {m : Mode} {s : State} (hm : modeRefusal m s = none) (h : s.region (modeAddr m s) ≠ .none) (r : Refusal) :
    exec (.lda (.mem m)) s ≠ .refused r := by
  have hnone : firstRefusal (.lda (.mem m)) s = none := by
    rw [firstRefusal_of_mode (m := m) rfl, refusalVia_accesses _ hm]
    simp [accesses, accessRefusal_read h]
  obtain ⟨t, ht⟩ := exec_completes hnone (by simp)
  simp [ht]

/-- Where the offset is taken and the first access is refused, the instruction is refused by it. -/
theorem exec_first_access_refused {i : Instr} {m : Mode} {x : Access} {xs : List Access} {s : State} {r : Refusal}
    (hi : modeOf i = some m) (ha : accesses i s = x :: xs) (hm : modeRefusal m s = none) (hr : accessRefusal s x = some r) :
    exec i s = .refused r := by
  apply exec_refused
  rw [firstRefusal_of_mode hi, refusalVia_accesses _ hm, ha]
  simp [hr]

/-- Where the offset and the first access are taken and the second access is refused, the instruction is refused by it. -/
theorem exec_second_access_refused {i : Instr} {m : Mode} {x y : Access} {s : State} {r : Refusal}
    (hi : modeOf i = some m) (ha : accesses i s = [x, y]) (hm : modeRefusal m s = none) (hx : accessRefusal s x = none)
    (hr : accessRefusal s y = some r) : exec i s = .refused r := by
  apply exec_refused
  rw [firstRefusal_of_mode hi, refusalVia_accesses _ hm, ha]
  simp [hx, hr]

/-- Where the offset is taken and a mapped location refuses a store, STA is refused by that, and INC after its read. -/
theorem exec_store_refused {m : Mode} {s : State} {r : Refusal} (hm : modeRefusal m s = none) (h : s.region (modeAddr m s) ≠ .none)
    (hr : storeRefusal (modeAddr m s) s = some r) : exec (.sta m) s = .refused r ∧ exec (.inc m) s = .refused r := by
  rw [← accessRefusal_write] at hr
  exact ⟨exec_first_access_refused rfl rfl hm hr, exec_second_access_refused rfl rfl hm (accessRefusal_read h) hr⟩

/-- An instruction whose offset is refused is refused by it. -/
theorem exec_offset_refused {i : Instr} {m : Mode} {s : State} {r : Refusal} (hi : modeOf i = some m)
    (hm : modeRefusal m s = some r) : exec i s = .refused r :=
  exec_refused ((firstRefusal_of_mode hi).trans (refusalVia_highOffset _ hm))

/-- Settles O22: `exec_completesUnless` gives the first two clauses, and each other clause is a first refusal computed. -/
theorem refusedAccesses : Obligations.RefusedAccesses := by
  refine ⟨fun _ _ _ => exec_refused, fun _ _ => exec_completes, fun m s hm hreg htext hnvm => ?nvm, fun m s hm hreg => ?unmapped,
    fun m s hm hreg hnext => ?secondByte, fun m s hm hreg htext => ?programText, fun ff s hs hff => ?highOffset⟩
  case nvm =>
    have hmap : s.region (modeAddr m s) ≠ .none := by simp [hreg]
    obtain ⟨hsta, hinc⟩ := exec_store_refused hm hmap (storeRefusal_nvm hreg htext hnvm)
    exact ⟨hsta, hinc, exec_lda_ne_refused hm hmap _⟩
  case unmapped =>
    exact ⟨exec_first_access_refused rfl rfl hm (accessRefusal_unmapped hreg),
      exec_first_access_refused rfl rfl hm (accessRefusal_unmapped hreg),
      exec_first_access_refused rfl rfl hm (accessRefusal_unmapped hreg)⟩
  case secondByte =>
    refine ⟨exec_second_access_refused rfl rfl hm (accessRefusal_read hreg) (accessRefusal_unmapped hnext), fun hstore => ?_⟩
    exact exec_second_access_refused rfl rfl hm ((accessRefusal_write s _).trans hstore) (accessRefusal_unmapped hnext)
  case programText =>
    obtain ⟨hsta, hinc⟩ := exec_store_refused hm hreg (storeRefusal_programText hreg htext)
    exact ⟨hsta, hinc, exec_lda_ne_refused hm hreg _⟩
  case highOffset =>
    obtain ⟨hix1, hsp1⟩ := modeRefusal_high hs hff
    exact ⟨exec_offset_refused rfl hix1, exec_offset_refused rfl hsp1, exec_offset_refused rfl hix1⟩

end Sys2Proof.Machine
end

section
/-! PROOFS. The access table of the registers (O23) and the summary of CCR effects (O24), by one case split over the instructions each,
and what a reset leaves (O16, O19). The two tables speak of the registers and the flags alone, which no access to memory changes: the rules
for reads, writes and the shared patterns of the instructions are proved once, for any relation between those parts of two states. -/
namespace Sys2Proof.Machine

open Sys2Proof

/-! ### The registers, the flags and the parameters of a state -/

/-- The part of a state that the tables speak of: every register but PC, and the parameters, on which the flags of some instructions
depend. -/
structure RegFile where
  a : Byte
  x : Byte
  h : Byte
  sp : Addr
  ccr : Ccr
  params : Params

def State.regFile (s : State) : RegFile := ⟨s.a, s.x, s.h, s.sp, s.ccr, s.params⟩

@[simp] theorem State.withPC_regFile (s : State) (v : Addr) : (s.withPC v).regFile = s.regFile := rfl

@[simp] theorem afterLoad_regFile (a : Addr) (s : State) : (afterLoad a s).regFile = s.regFile := by
  unfold afterLoad; split <;> rfl

@[simp] theorem afterStore_regFile (a : Addr) (v : Byte) (s : State) : (afterStore a v s).regFile = s.regFile := by
  unfold afterStore; split <;> rfl

@[simp] theorem operand8After_regFile (o : Operand8) (s : State) : (operand8After o s).regFile = s.regFile := by
  cases o with
  | imm ii => rfl
  | mem m => exact afterLoad_regFile _ s

@[simp] theorem operand16After_regFile (o : Operand16) (s : State) : (operand16After o s).regFile = s.regFile := by
  cases o with
  | imm jjkk => rfl
  | mem m => simp [operand16After]

/-- From `s` to `t`, of these parts of the state, only flags change. -/
def FlagsOnly (s t : State) : Prop := ∃ f, t.regFile = { s.regFile with ccr := f }

theorem FlagsOnly.params_eq {s t : State} (h : FlagsOnly s t) : t.params = s.params := by
  obtain ⟨f, hf⟩ := h
  exact congrArg RegFile.params hf

theorem FlagsOnly.refl (s : State) : FlagsOnly s s := ⟨s.ccr, rfl⟩

theorem flagsOnly_cautiousC (s : State) (f : Ccr) : FlagsOnly s (cautiousC (s.withCcr f)) := by
  unfold cautiousC; split <;> exact ⟨_, rfl⟩

theorem flagsOnly_cautiousV (s : State) (f : Ccr) : FlagsOnly s (cautiousV (s.withCcr f)) := by
  unfold cautiousV; split <;> exact ⟨_, rfl⟩

theorem flagsOnly_incOp (b : Byte) (s : State) : FlagsOnly s (incOp b s).2 := flagsOnly_cautiousC s _
theorem flagsOnly_decOp (b : Byte) (s : State) : FlagsOnly s (decOp b s).2 := flagsOnly_cautiousC s _
theorem flagsOnly_clearedFlags (s : State) : FlagsOnly s (clearedFlags s) := flagsOnly_cautiousC s _
theorem flagsOnly_testFlags (b : Byte) (s : State) : FlagsOnly s (testFlags b s) := flagsOnly_cautiousC s _
theorem flagsOnly_shiftTo (r : Byte) (out : Bool) (s : State) : FlagsOnly s (shiftTo r out s).2 := flagsOnly_cautiousV s _
theorem flagsOnly_negOp (b : Byte) (s : State) : FlagsOnly s (negOp b s).2 := ⟨_, rfl⟩
theorem flagsOnly_comOp (b : Byte) (s : State) : FlagsOnly s (comOp b s).2 := ⟨_, rfl⟩

/-! ### What an outcome leaves of them -/

/-- Every next state that `x` answers has registers, flags and parameters in the relation `R` to those of `s`. -/
def Leaves (R : RegFile → RegFile → Prop) (s : State) (x : Result State) : Prop := ∀ t, x = .next t → R s.regFile t.regFile

section
variable {R : RegFile → RegFile → Prop} {i : Instr} {s : State}

theorem Leaves.next {t : State} (h : R s.regFile t.regFile) : Leaves R s (.next t) := by
  rintro _ ⟨⟩; exact h

theorem Leaves.afterRead {a : Addr} {f : Byte × State → Result State} (hf : ∀ v u, Leaves R u (f (v, u))) :
    Leaves R s (andThen (memRead a s) f) := by
  intro t h
  obtain ⟨_, hread, h⟩ := andThen_eq_next.mp h
  obtain ⟨-, rfl⟩ := memRead_eq_next.mp hread
  simpa using hf _ _ t h

/-- The write of a MOV with its flags, and what follows it. -/
theorem Leaves.afterMove {a : Addr} {v : Byte} {f : State → Result State} (hf : ∀ u, Leaves R u (f (u.withCcr (u.ccr.moved8 v)))) :
    Leaves R s (andThen (moveTo a v s) f) := by
  intro t h
  rw [moveTo, andThen_assoc] at h
  obtain ⟨_, hwrite, h⟩ := andThen_eq_next.mp h
  obtain ⟨-, rfl⟩ := memWrite_eq_next.mp hwrite
  simpa using hf _ t h

theorem withOperand8_leaves {o : Operand8} {f : Byte → State → State} (hf : ∀ b u, R u.regFile (f b u).regFile) :
    Leaves R s (withOperand8 o f i s) := by
  intro t h
  obtain ⟨-, rfl⟩ := withOperand8_eq_next.mp h
  simpa using hf (operand8Value o s) (operand8After o s)

theorem withOperand16_leaves {o : Operand16} {f : Addr → State → State} (hf : ∀ w u, R u.regFile (f w u).regFile) :
    Leaves R s (withOperand16 o f i s) := by
  intro t h
  obtain ⟨-, rfl⟩ := withOperand16_eq_next.mp h
  simpa using hf (operand16Value o s) (operand16After o s)

theorem storeMode_leaves {m : Mode} {v : Byte} {f : State → Result State} (hf : ∀ u, Leaves R u (f u)) :
    Leaves R s (andThen (storeMode m v s) f) := by
  intro t h
  obtain ⟨_, hstore, h⟩ := andThen_eq_next.mp h
  obtain ⟨-, rfl⟩ := storeMode_eq_next.mp hstore
  simpa using hf _ t h

theorem storeMode16_leaves {m : Mode} {v : Addr} {f : State → Result State} (hf : ∀ u, Leaves R u (f u)) :
    Leaves R s (andThen (storeMode16 m v s) f) := by
  intro t h
  obtain ⟨_, hstore, h⟩ := andThen_eq_next.mp h
  obtain ⟨-, rfl⟩ := storeMode16_eq_next.mp hstore
  simpa using hf _ t h

theorem rmwMem_leaves {op : UnaryOp} {m : Mode} (hop : ∀ b u, FlagsOnly u (op b u).2)
    (hR : ∀ b u, R u.regFile (op b u).2.regFile) : Leaves R s (rmwMem op m i s) := by
  intro t h
  obtain ⟨-, rfl⟩ := (rmwMem_eq_next fun b u => (hop b u).params_eq).mp h
  simpa using hR (loadValue (modeAddr m s) s) (afterLoad (modeAddr m s) s)

theorem effAddr_leaves {m : Mode} {f : Addr → Result State} (hf : Leaves R s (f (modeAddr m s))) :
    Leaves R s (andThen (effAddr m s) f) := by
  intro t h
  obtain ⟨_, haddr, h⟩ := andThen_eq_next.mp h
  obtain ⟨-, rfl⟩ := effAddr_eq_next.mp haddr
  exact hf t h

/-- TXS completes only where it is accepted. -/
theorem execTxs_leaves (h : R s.regFile (s.withSP (s.hx - 1)).regFile) : Leaves R s (execTxs s) := by
  cases hacc : s.params.acceptTxs with
  | true => rw [execTxs_accepted hacc]; exact .next h
  | false => rw [execTxs_refused hacc]; rintro t ⟨⟩

end

/-! ### The access table of the registers -/

/-- A register that the access table does not list as written by `i` is in `q` as it was in `p` (10_state.md R25). -/
structure KeepsUnlisted (i : Instr) (p q : RegFile) : Prop where
  a : i.writesA = false → q.a = p.a
  x : i.writesX = false → q.x = p.x
  h : i.writesH = false → q.h = p.h
  sp : i.writesSP = false → q.sp = p.sp

section
variable {i : Instr} {s t : State}

theorem FlagsOnly.keepsUnlisted (h : FlagsOnly s t) : KeepsUnlisted i s.regFile t.regFile := by
  obtain ⟨f, hf⟩ := h
  rw [hf]
  exact ⟨fun _ => rfl, fun _ => rfl, fun _ => rfl, fun _ => rfl⟩

theorem FlagsOnly.withA_keepsUnlisted (h : FlagsOnly s t) (hi : i.writesA = true) (v : Byte) :
    KeepsUnlisted i s.regFile (t.withA v).regFile :=
  ⟨by simp [hi], h.keepsUnlisted.x, h.keepsUnlisted.h, h.keepsUnlisted.sp⟩

theorem FlagsOnly.withX_keepsUnlisted (h : FlagsOnly s t) (hi : i.writesX = true) (v : Byte) :
    KeepsUnlisted i s.regFile (t.withX v).regFile :=
  ⟨h.keepsUnlisted.a, by simp [hi], h.keepsUnlisted.h, h.keepsUnlisted.sp⟩

theorem FlagsOnly.withH_keepsUnlisted (h : FlagsOnly s t) (hi : i.writesH = true) (v : Byte) :
    KeepsUnlisted i s.regFile (t.withH v).regFile :=
  ⟨h.keepsUnlisted.a, h.keepsUnlisted.x, by simp [hi], h.keepsUnlisted.sp⟩

theorem rmwMem_keepsUnlisted {op : UnaryOp} {m : Mode} (hop : ∀ b u, FlagsOnly u (op b u).2) :
    Leaves (KeepsUnlisted i) s (rmwMem op m i s) :=
  rmwMem_leaves hop fun b u => (hop b u).keepsUnlisted

theorem rmwA_keepsUnlisted {op : UnaryOp} (hi : i.writesA = true) (hop : ∀ b u, FlagsOnly u (op b u).2) :
    Leaves (KeepsUnlisted i) s (rmwA op i s) :=
  .next ((hop s.a s).withA_keepsUnlisted hi _)

theorem rmwX_keepsUnlisted {op : UnaryOp} (hi : i.writesX = true) (hop : ∀ b u, FlagsOnly u (op b u).2) :
    Leaves (KeepsUnlisted i) s (rmwX op i s) :=
  .next ((hop s.x s).withX_keepsUnlisted hi _)

end

/-- The X+ forms of MOV write H and X; the other two write no register. -/
theorem execMov_keepsUnlisted (f : MovForm) (s : State) : Leaves (KeepsUnlisted (.mov f)) s (execMov f s) := by
  cases f with
  | dirDir src dst => exact .afterRead fun _ _ => .afterMove fun _ => .next (FlagsOnly.keepsUnlisted ⟨_, rfl⟩)
  | immDir ii dd => exact .afterMove fun _ => .next (FlagsOnly.keepsUnlisted ⟨_, rfl⟩)
  | dirIxp dd => exact .afterRead fun _ _ => .afterMove fun _ => .next ⟨fun _ => rfl, nofun, nofun, fun _ => rfl⟩
  | ixpDir dd => exact .afterRead fun _ _ => .afterMove fun _ => .next ⟨fun _ => rfl, nofun, nofun, fun _ => rfl⟩

theorem exec_keepsUnlisted (i : Instr) (s : State) : Leaves (KeepsUnlisted i) s (exec i s) := by
  cases i with
  | lda o | adc o | add o | sub o | sbc o | and o | ora o | eor o =>
    rw [exec]; exact withOperand8_leaves fun _ _ => ⟨nofun, fun _ => rfl, fun _ => rfl, fun _ => rfl⟩
  | ldx o => rw [exec]; exact withOperand8_leaves fun _ _ => ⟨fun _ => rfl, nofun, fun _ => rfl, fun _ => rfl⟩
  | ldhx o => rw [exec]; exact withOperand16_leaves fun _ _ => ⟨fun _ => rfl, nofun, nofun, fun _ => rfl⟩
  | cmp o | cpx o | bit o => rw [exec]; exact withOperand8_leaves fun _ _ => FlagsOnly.keepsUnlisted ⟨_, rfl⟩
  | cphx o => rw [exec]; exact withOperand16_leaves fun _ _ => FlagsOnly.keepsUnlisted ⟨_, rfl⟩
  | tst m => exact withOperand8_leaves fun b u => (flagsOnly_testFlags b u).keepsUnlisted
  | sta m | stx m => exact storeMode_leaves fun _ => .next (FlagsOnly.keepsUnlisted ⟨_, rfl⟩)
  | sthx m => exact storeMode16_leaves fun _ => .next (FlagsOnly.keepsUnlisted ⟨_, rfl⟩)
  | bset n dd | bclr n dd => rw [exec]; exact rmwMem_keepsUnlisted fun _ => FlagsOnly.refl
  | inc m => exact rmwMem_keepsUnlisted flagsOnly_incOp
  | dec m => exact rmwMem_keepsUnlisted flagsOnly_decOp
  | clr m => exact rmwMem_keepsUnlisted fun _ => flagsOnly_clearedFlags
  | neg m => exact rmwMem_keepsUnlisted flagsOnly_negOp
  | com m => exact rmwMem_keepsUnlisted flagsOnly_comOp
  | lsl m | asl m | lsr m | asr m | rol m | ror m => exact rmwMem_keepsUnlisted fun _ _ => flagsOnly_shiftTo ..
  | inca => exact rmwA_keepsUnlisted rfl flagsOnly_incOp
  | deca => exact rmwA_keepsUnlisted rfl flagsOnly_decOp
  | clra => exact rmwA_keepsUnlisted rfl fun _ => flagsOnly_clearedFlags
  | nega => exact rmwA_keepsUnlisted rfl flagsOnly_negOp
  | coma => exact rmwA_keepsUnlisted rfl flagsOnly_comOp
  | lsla | asla | lsra | asra | rola | rora => exact rmwA_keepsUnlisted rfl fun _ _ => flagsOnly_shiftTo ..
  | incx => exact rmwX_keepsUnlisted rfl flagsOnly_incOp
  | decx => exact rmwX_keepsUnlisted rfl flagsOnly_decOp
  | clrx => exact rmwX_keepsUnlisted rfl fun _ => flagsOnly_clearedFlags
  | negx => exact rmwX_keepsUnlisted rfl flagsOnly_negOp
  | comx => exact rmwX_keepsUnlisted rfl flagsOnly_comOp
  | lslx | aslx | lsrx | asrx | rolx | rorx => exact rmwX_keepsUnlisted rfl fun _ _ => flagsOnly_shiftTo ..
  | clrh => exact .next ((flagsOnly_clearedFlags s).withH_keepsUnlisted rfl _)
  | tsta | tstx => exact .next (flagsOnly_testFlags _ s).keepsUnlisted
  | mov f => exact execMov_keepsUnlisted f s
  | txa | tpa | nsa | daa => exact .next ⟨nofun, fun _ => rfl, fun _ => rfl, fun _ => rfl⟩
  | tax => exact .next ⟨fun _ => rfl, nofun, fun _ => rfl, fun _ => rfl⟩
  | tap => exact .next (FlagsOnly.keepsUnlisted ⟨_, rfl⟩)
  | ais ii => exact .next ⟨fun _ => rfl, fun _ => rfl, fun _ => rfl, nofun⟩
  | aix ii => exact .next ⟨fun _ => rfl, nofun, nofun, fun _ => rfl⟩
  | mul => exact .next ⟨nofun, nofun, fun _ => rfl, fun _ => rfl⟩
  | div => rw [exec, execDiv]; split <;> exact .next ⟨nofun, fun _ => rfl, nofun, fun _ => rfl⟩
  | jmp m => exact effAddr_leaves (.next (FlagsOnly.refl s).keepsUnlisted)
  | bra | brn | bhi | bls | bcc | bhs | bcs | blo | bne | beq | bhcc | bhcs => exact .next (FlagsOnly.refl s).keepsUnlisted
  | bpl | bmi | bmc | bms | bil | bih | bge | blt | bgt | ble => exact .next (FlagsOnly.refl s).keepsUnlisted
  | txs => exact execTxs_leaves ⟨fun _ => rfl, fun _ => rfl, fun _ => rfl, nofun⟩

/-- Settles O23, by the case split `exec_keepsUnlisted`. -/
theorem registerWriteTable : Obligations.RegisterWriteTable := by
  intro i s t h
  obtain ⟨ha, hx, hh, hsp⟩ := exec_keepsUnlisted i s t h
  exact ⟨ha, hx, hh, hsp⟩

/-! ### The summary of CCR effects -/

/-- The flags before and after, as a row of the summary says (10_state.md R39). -/
def AllowsFlags (r : CcrRow) (f g : Ccr) : Prop :=
  r.v.allows f.v g.v ∧ r.h.allows f.h g.h ∧ r.i.allows f.i g.i ∧ r.n.allows f.n g.n ∧ r.z.allows f.z g.z ∧ r.c.allows f.c g.c

/-! The rows, each for the flag computation of the model that has it. -/

theorem allowsFlags_kept (f : Ccr) : AllowsFlags ⟨.keep, .keep, .keep, .keep, .keep, .keep⟩ f f := ⟨rfl, rfl, rfl, rfl, rfl, rfl⟩

theorem allowsFlags_any (f g : Ccr) : AllowsFlags ⟨.result, .result, .result, .result, .result, .result⟩ f g :=
  ⟨trivial, trivial, trivial, trivial, trivial, trivial⟩

theorem allowsFlags_moved8 (f : Ccr) (r : Byte) : AllowsFlags ⟨.clear, .keep, .keep, .result, .result, .keep⟩ f (f.moved8 r) :=
  ⟨rfl, rfl, rfl, trivial, trivial, rfl⟩

theorem allowsFlags_moved16 (f : Ccr) (r : Addr) : AllowsFlags ⟨.clear, .keep, .keep, .result, .result, .keep⟩ f (f.moved16 r) :=
  ⟨rfl, rfl, rfl, trivial, trivial, rfl⟩

theorem allowsFlags_added (f : Ccr) (d : Sum8) : AllowsFlags ⟨.result, .result, .keep, .result, .result, .result⟩ f (f.added d) :=
  ⟨trivial, trivial, rfl, trivial, trivial, trivial⟩

theorem allowsFlags_subtracted (f : Ccr) (d : Diff8) :
    AllowsFlags ⟨.result, .keep, .keep, .result, .result, .result⟩ f (f.subtracted d) :=
  ⟨trivial, rfl, rfl, trivial, trivial, trivial⟩

theorem allowsFlags_subtracted16 (f : Ccr) (d : Diff16) :
    AllowsFlags ⟨.result, .keep, .keep, .result, .result, .result⟩ f (f.subtracted16 d) :=
  ⟨trivial, rfl, rfl, trivial, trivial, trivial⟩

theorem allowsFlags_shifted (f : Ccr) (r : Byte) (out : Bool) :
    AllowsFlags ⟨.result, .keep, .keep, .result, .result, .result⟩ f (f.shifted r out) :=
  ⟨trivial, rfl, rfl, trivial, trivial, trivial⟩

theorem allowsFlags_comOp (b : Byte) (s : State) :
    AllowsFlags ⟨.clear, .keep, .keep, .result, .result, .set⟩ s.ccr (comOp b s).2.ccr :=
  ⟨rfl, rfl, rfl, trivial, trivial, rfl⟩

/-! The operations whose flags `cautious_flags` touches, without it. -/

theorem cautiousC_off {s : State} (h : s.params.cautiousFlags = false) (f : Ccr) : cautiousC (s.withCcr f) = s.withCcr f :=
  if_neg (by simp [h])

theorem cautiousV_off {s : State} (h : s.params.cautiousFlags = false) (f : Ccr) : cautiousV (s.withCcr f) = s.withCcr f :=
  if_neg (by simp [h])

section
variable {s : State} (h : s.params.cautiousFlags = false)
include h

theorem allowsFlags_incOp (b : Byte) : AllowsFlags ⟨.result, .keep, .keep, .result, .result, .keep⟩ s.ccr (incOp b s).2.ccr := by
  rw [incOp, cautiousC_off h]
  exact ⟨trivial, rfl, rfl, trivial, trivial, rfl⟩

theorem allowsFlags_decOp (b : Byte) : AllowsFlags ⟨.result, .keep, .keep, .result, .result, .keep⟩ s.ccr (decOp b s).2.ccr := by
  rw [decOp, cautiousC_off h]
  exact ⟨trivial, rfl, rfl, trivial, trivial, rfl⟩

theorem allowsFlags_clearedFlags : AllowsFlags ⟨.clear, .keep, .keep, .clear, .set, .keep⟩ s.ccr (clearedFlags s).ccr := by
  rw [clearedFlags, cautiousC_off h]
  exact ⟨rfl, rfl, rfl, rfl, rfl, rfl⟩

theorem allowsFlags_testFlags (b : Byte) :
    AllowsFlags ⟨.clear, .keep, .keep, .result, .result, .keep⟩ s.ccr (testFlags b s).ccr := by
  rw [testFlags, cautiousC_off h]
  exact allowsFlags_moved8 ..

theorem allowsFlags_shiftTo (r : Byte) (out : Bool) :
    AllowsFlags ⟨.result, .keep, .keep, .result, .result, .result⟩ s.ccr (shiftTo r out s).2.ccr := by
  rw [shiftTo, cautiousV_off h]
  exact allowsFlags_shifted ..

/-- LSR clears N: a zero enters bit 7. -/
theorem allowsFlags_lsrOp (b : Byte) : AllowsFlags ⟨.result, .keep, .keep, .clear, .result, .result⟩ s.ccr (lsrOp b s).2.ccr := by
  have hmsb : (b >>> 1).msb = false := by simp [BitVec.msb_ushiftRight]
  rw [lsrOp, shiftTo, cautiousV_off h]
  exact ⟨trivial, rfl, rfl, hmsb, trivial, trivial⟩

end

/-- The flags of `q` are as the row of `i` says of those of `p`, without `cautious_flags`. -/
def FollowsRow (i : Instr) (p q : RegFile) : Prop := p.params.cautiousFlags = false → AllowsFlags i.ccrRow p.ccr q.ccr

theorem execMov_followsRow (f : MovForm) (s : State) : Leaves (FollowsRow (.mov f)) s (execMov f s) := by
  cases f with
  | immDir ii dd => exact .afterMove fun _ => .next fun _ => allowsFlags_moved8 ..
  | dirDir src dst | dirIxp dd | ixpDir dd => exact .afterRead fun _ _ => .afterMove fun _ => .next fun _ => allowsFlags_moved8 ..

theorem exec_followsRow (i : Instr) (s : State) : Leaves (FollowsRow i) s (exec i s) := by
  cases i with
  | lda o | ldx o | and o | ora o | eor o | bit o => rw [exec]; exact withOperand8_leaves fun _ _ _ => allowsFlags_moved8 ..
  | ldhx o => rw [exec]; exact withOperand16_leaves fun _ _ _ => allowsFlags_moved16 ..
  | adc o | add o => rw [exec]; exact withOperand8_leaves fun _ _ _ => allowsFlags_added ..
  | sub o | sbc o | cmp o | cpx o => rw [exec]; exact withOperand8_leaves fun _ _ _ => allowsFlags_subtracted ..
  | cphx o => rw [exec]; exact withOperand16_leaves fun _ _ _ => allowsFlags_subtracted16 ..
  | tst m => exact withOperand8_leaves fun b _ h => allowsFlags_testFlags h b
  | sta m | stx m => exact storeMode_leaves fun _ => .next fun _ => allowsFlags_moved8 ..
  | sthx m => exact storeMode16_leaves fun _ => .next fun _ => allowsFlags_moved16 ..
  | bset n dd | bclr n dd => rw [exec]; exact rmwMem_leaves (fun _ => .refl) fun _ _ _ => allowsFlags_kept _
  | inc m => exact rmwMem_leaves flagsOnly_incOp fun b _ h => allowsFlags_incOp h b
  | dec m => exact rmwMem_leaves flagsOnly_decOp fun b _ h => allowsFlags_decOp h b
  | clr m => exact rmwMem_leaves (fun _ => flagsOnly_clearedFlags) fun _ _ h => allowsFlags_clearedFlags h
  | neg m => exact rmwMem_leaves flagsOnly_negOp fun _ _ _ => allowsFlags_subtracted ..
  | com m => exact rmwMem_leaves flagsOnly_comOp fun b u _ => allowsFlags_comOp b u
  | lsr m => exact rmwMem_leaves (fun _ _ => flagsOnly_shiftTo ..) fun b _ h => allowsFlags_lsrOp h b
  | lsl m | asl m | asr m | rol m | ror m =>
    exact rmwMem_leaves (fun _ _ => flagsOnly_shiftTo ..) fun _ _ h => allowsFlags_shiftTo h ..
  | inca | incx => exact .next fun h => allowsFlags_incOp h _
  | deca | decx => exact .next fun h => allowsFlags_decOp h _
  | clra | clrx | clrh => exact .next fun h => allowsFlags_clearedFlags h
  | nega | negx => exact .next fun _ => allowsFlags_subtracted ..
  | coma | comx => exact .next fun _ => allowsFlags_comOp _ s
  | lsra | lsrx => exact .next fun h => allowsFlags_lsrOp h _
  | lsla | lslx | asla | aslx | asra | asrx | rola | rolx | rora | rorx => exact .next fun h => allowsFlags_shiftTo h ..
  | tsta | tstx => exact .next fun h => allowsFlags_testFlags h _
  | mov f => exact execMov_followsRow f s
  | tap => exact .next fun _ => allowsFlags_any ..
  | mul => exact .next fun _ => ⟨rfl, rfl, rfl, rfl, rfl, rfl⟩
  | div => rw [exec, execDiv]; split <;> exact .next fun _ => ⟨rfl, rfl, rfl, rfl, trivial, trivial⟩
  | daa => exact .next fun _ => ⟨trivial, rfl, rfl, trivial, trivial, trivial⟩
  | tax | txa | tpa | nsa | ais | aix => exact .next fun _ => allowsFlags_kept _
  | jmp m => exact effAddr_leaves (.next fun _ => allowsFlags_kept _)
  | bra | brn | bhi | bls | bcc | bhs | bcs | blo | bne | beq | bhcc | bhcs => exact .next fun _ => allowsFlags_kept _
  | bpl | bmi | bmc | bms | bil | bih | bge | blt | bgt | ble => exact .next fun _ => allowsFlags_kept _
  | txs => exact execTxs_leaves fun _ => allowsFlags_kept _

/-- Settles O24, by the case split `exec_followsRow`. -/
theorem ccrEffectsTable : Obligations.CcrEffectsTable := fun i s t hflags h => exec_followsRow i s t h hflags

/-! ### Reset -/

theorem State.reset_byteAt (a : Addr) : State.reset.byteAt a = 0x00#8 := rfl

theorem joinBytes_eq_ofNat (hi lo : Byte) : joinBytes hi lo = BitVec.ofNat 16 (256 * hi.toNat + lo.toNat) := by
  rw [← toNat_joinBytes, BitVec.ofNat_toNat, BitVec.setWidth_eq]

/-- Settles O16. -/
theorem resetMemoryCanonical : Obligations.ResetMemoryCanonical := ⟨rfl, State.reset_byteAt⟩

/-- Settles O19: the reset vector is read as a big-endian word, and every other field is as `State.resetWith` gives it. -/
theorem resetValues : Obligations.ResetValues := by
  refine ⟨fun m p => ⟨?pc, rfl, rfl, rfl⟩, rfl, rfl, rfl, rfl, rfl, ?ccr, rfl, rfl, rfl, rfl, fun _ => rfl, rfl, fun _ => rfl,
    rfl, rfl, rfl, rfl, rfl⟩
  case pc =>
    rw [State.resetWith_pc, Memory.resetVector]
    exact joinBytes_eq_ofNat ..
  case ccr => decide

end Sys2Proof.Machine
end

section
/-! PROOFS. Byte accesses by region: reads and writes (O11), reads after writes (O12), 16-bit accesses (O13), refused stores (O14). -/
namespace Sys2Proof.Machine

open Sys2Proof

/-! ### A byte access, by region -/

/-- RAM and NVM are mapped, and the platform does not answer for them. -/
theorem PlainAt.mapped {s : State} {a : Addr} (h : PlainAt s a) : s.region a ≠ .none ∧ s.region a ≠ .io := by
  rcases h with h | h <;> simp [h]

theorem memRead_plain {s : State} {a : Addr} (h : PlainAt s a) : memRead a s = .next (s.byteAt a, s) := by
  obtain ⟨hnone, hio⟩ := h.mapped
  rw [memRead_mapped hnone, loadValue_plain hio, afterLoad_plain hio]

theorem memRead_unmapped {s : State} {a : Addr} (h : s.region a = .none) : memRead a s = .refused (.unmappedAccess a) := if_pos h

theorem afterLoad_io {s : State} {a : Addr} (h : s.region a = .io) : afterLoad a s = (s.logIo (.read a (loadValue a s))).drawn := if_pos h

theorem afterStore_ram {s : State} {a : Addr} (v : Byte) (h : s.region a = .ram) :
    afterStore a v s = s.withMem (s.mem.write a.toNat v) := by
  simp [afterStore, h]

theorem afterStore_nvm {s : State} {a : Addr} (v : Byte) (h : s.region a = .nvm) : afterStore a v s = s := by
  simp [afterStore, h]

theorem afterStore_io {s : State} {a : Addr} (v : Byte) (h : s.region a = .io) : afterStore a v s = s.logIo (.write a v) := by
  simp [afterStore, h]

/-- Outside RAM a store changes no byte. -/
theorem afterStore_mem {s : State} {a : Addr} (v : Byte) (h : s.region a ≠ .ram) : (afterStore a v s).mem = s.mem := by
  unfold afterStore
  split
  · contradiction
  · rfl
  · rfl
  · rfl

/-- A store is taken exactly where something stands, outside the program text, and not in NVM that refuses it. -/
theorem storeRefusal_eq_none {s : State} {a : Addr} :
    storeRefusal a s = none ↔
      s.region a ≠ .none ∧ s.inProgramText a = false ∧ (s.region a = .nvm → s.params.refuseNvmWrite = false) := by
  unfold storeRefusal
  split
  · simp_all
  · split
    · simp_all
    · split <;> simp_all

theorem storeRefusal_unmapped {s : State} {a : Addr} (h : s.region a = .none) : storeRefusal a s = some (.unmappedAccess a) := if_pos h

theorem memWrite_refused {s : State} {a : Addr} {r : Refusal} (v : Byte) (h : storeRefusal a s = some r) :
    memWrite a v s = .refused r := by
  simp [memWrite, h]

theorem Writable.storable {s : State} {a : Addr} (h : Writable s a) : storeRefusal a s = none := by
  obtain ⟨hram, htext⟩ := h
  exact storeRefusal_eq_none.mpr ⟨by simp [hram], htext, by simp [hram]⟩

/-- A store to RAM outside the program text puts the byte in memory. -/
theorem memWrite_writable {s : State} {a : Addr} (v : Byte) (h : Writable s a) :
    memWrite a v s = .next (s.withMem (s.mem.write a.toNat v)) := by
  rw [memWrite_ready h.storable, afterStore_ram v h.1]

/-- After a store to RAM, a read at any RAM or NVM location. -/
theorem State.byteAt_withMem_write {s : State} (hwf : s.mem.wf) (a b : Addr) (v : Byte) :
    (s.withMem (s.mem.write a.toNat v)).byteAt b = if b = a then v else s.byteAt b := by
  split
  case isTrue h => subst h; exact Memory.read_write_same _ v hwf
  case isFalse h => exact Memory.read_write_other _ v fun e => h (BitVec.eq_of_toNat_eq e)

/-- Settles O11, a region at a time. -/
theorem regionBehaviour : Obligations.RegionBehaviour := by
  refine ⟨fun a s => memRead_plain, fun a s hio => ?readIo, fun a s => memRead_unmapped, fun a v s hw hwf => ?writeRam,
    fun a v s hnvm htext hswitch => ?writeNvm, fun a v s hio htext => ?writeIo,
    fun a v s h => memWrite_refused v (storeRefusal_unmapped h)⟩
  case readIo =>
    refine ⟨loadValue a s, ?_⟩
    rw [memRead_mapped (by simp [hio]), afterLoad_io hio]
    rfl
  case writeRam =>
    refine ⟨_, memWrite_writable v hw, Memory.wf_write v a.isLt hwf, Memory.read_write_same _ v hwf, fun b hb => ?_⟩
    exact Memory.read_write_other _ v fun e => hb (BitVec.eq_of_toNat_eq e)
  case writeNvm =>
    rw [memWrite_ready (storeRefusal_eq_none.mpr ⟨by simp [hnvm], htext, fun _ => hswitch⟩), afterStore_nvm v hnvm]
  case writeIo =>
    rw [memWrite_ready (storeRefusal_eq_none.mpr ⟨by simp [hio], htext, by simp [hio]⟩), afterStore_io v hio]
    rfl

/-- Settles O12. -/
theorem ramReadsLatestWrite : Obligations.RamReadsLatestWrite := by
  intro a b v s hwf ha hb
  have hread (c : Addr) (hc : PlainAt s c) :
      memRead c (s.withMem (s.mem.write a.toNat v)) =
        .next (if c = a then v else s.byteAt c, s.withMem (s.mem.write a.toNat v)) := by
    rw [memRead_plain (by simpa [PlainAt] using hc), State.byteAt_withMem_write hwf]
  exact ⟨_, memWrite_writable v ha, by simpa using hread a (.inl ha.1), hread b hb⟩

theorem add_one_eq_ofNat (a : Addr) : a + 1 = BitVec.ofNat 16 (a.toNat + 1) := by
  apply BitVec.eq_of_toNat_eq
  simp

theorem hiByte_eq_ofNat (w : Addr) : hiByte w = BitVec.ofNat 8 (w.toNat / 256) := by
  rw [← toNat_hiByte, BitVec.ofNat_toNat, BitVec.setWidth_eq]

theorem loByte_eq_ofNat (w : Addr) : loByte w = BitVec.ofNat 8 w.toNat := by
  apply BitVec.eq_of_toNat_eq
  rw [toNat_loByte, BitVec.toNat_ofNat]

/-- Settles O13: the order is that of the definitions, and the next address and the bytes of a word are what they are as numbers. -/
theorem sixteenBitAccess : Obligations.SixteenBitAccess := by
  refine ⟨fun a s => ?_, fun a w s => ?_⟩
  · simp only [← add_one_eq_ofNat, ← joinBytes_eq_ofNat]
    rfl
  · rw [← add_one_eq_ofNat, ← hiByte_eq_ofNat, ← loByte_eq_ofNat]
    rfl

/-- Settles O14. -/
theorem storeRefusals : Obligations.StoreRefusals := by
  intro a v s
  refine ⟨fun h => ?_, fun h htext => ?_, fun h htext hswitch => ?_, fun h htext hswitch => ?_⟩
  · exact memWrite_refused v (storeRefusal_unmapped h)
  · exact memWrite_refused v (storeRefusal_programText h htext)
  · exact memWrite_refused v (storeRefusal_nvm h htext hswitch)
  · exact ⟨_, memWrite_ready (storeRefusal_eq_none.mpr ⟨h, htext, hswitch⟩)⟩

end Sys2Proof.Machine
end

section
/-! PROOFS. What a whole instruction does to memory and to the platform: it performs the accesses of the access table in order and nothing
else (`exec_makes`, one case split over the instructions). The memory invariants of a step (O15, O17), the frame of an instruction (O20) and
the platform's history (O21) are each read off the accesses performed. -/
namespace Sys2Proof.Machine

open Sys2Proof

/-! ### The accesses that an outcome performs -/

/-- The part of a state that accesses to memory act on, and the parameters, which decide how they act. -/
structure Bus where
  mem : Memory
  ioLog : List IoEvent
  params : Params

def State.bus (s : State) : Bus := ⟨s.mem, s.ioLog, s.params⟩

theorem mem_eq_of_bus {s t : State} (h : t.bus = s.bus) : t.mem = s.mem := congrArg Bus.mem h
theorem ioLog_eq_of_bus {s t : State} (h : t.bus = s.bus) : t.ioLog = s.ioLog := congrArg Bus.ioLog h
theorem params_eq_of_bus {s t : State} (h : t.bus = s.bus) : t.params = s.params := congrArg Bus.params h

theorem byteAt_eq_of_bus {s t : State} (h : t.bus = s.bus) (a : Addr) : t.byteAt a = s.byteAt a := by
  simp only [State.byteAt, mem_eq_of_bus h]

/-- What a store does to memory and to the history depends on these alone. -/
theorem afterStore_bus_congr {s t : State} (h : t.bus = s.bus) (a : Addr) (v : Byte) :
    (afterStore a v t).bus = (afterStore a v s).bus := by
  unfold afterStore
  rw [region_congr (params_eq_of_bus h)]
  split <;> simp [State.bus, mem_eq_of_bus h, ioLog_eq_of_bus h, params_eq_of_bus h]

/-- From `s` to `t`, memory and the history change by these accesses in order, each taken, and by nothing else; registers may change in
any way between them. -/
inductive Performs : List Access → State → State → Prop where
  | done {s t : State} (h : t.bus = s.bus) : Performs [] s t
  | read {a : Addr} {xs : List Access} {s u t : State} (hu : u.bus = (afterLoad a s).bus) (h : Performs xs u t) :
      Performs (.read a :: xs) s t
  | write {a : Addr} {v : Byte} {xs : List Access} {s u t : State} (hs : storeRefusal a s = none)
      (hu : u.bus = (afterStore a v s).bus) (h : Performs xs u t) : Performs (.write a :: xs) s t

/-- Accesses keep the canonical form of memory. -/
theorem Performs.mem_wf {xs : List Access} {s t : State} (h : Performs xs s t) (hwf : s.mem.wf) : t.mem.wf := by
  induction h with
  | done h => rwa [mem_eq_of_bus h]
  | read hu _ ih => exact ih (by rwa [mem_eq_of_bus hu, afterLoad_mem])
  | write _ hu _ ih => exact ih (by rw [mem_eq_of_bus hu]; exact afterStore_mem_wf _ _ _ hwf)

theorem writable_congr {s t : State} (h : t.params = s.params) (a : Addr) : Writable t a ↔ Writable s a := by
  simp only [Writable, State.region, State.inProgramText, h]

/-- A store that is taken changes a byte only at its own address, and only in RAM outside the program text. -/
theorem afterStore_byteAt_ne {s : State} {a b : Addr} {v : Byte} (hs : storeRefusal a s = none)
    (h : (afterStore a v s).byteAt b ≠ s.byteAt b) : b = a ∧ Writable s b := by
  have hba : b = a := Decidable.byContradiction fun hne => h (afterStore_byteAt_other v s hne)
  subst hba
  have hram : s.region b = .ram := Decidable.byContradiction fun hne => h (by simp only [State.byteAt, afterStore_mem v hne])
  exact ⟨rfl, hram, (mapped_of_storable hs).2⟩

/-- Accesses change a byte only by a write to its address, in RAM outside the program text. -/
theorem Performs.byteAt_ne {xs : List Access} {s t : State} {b : Addr} (h : Performs xs s t) (hb : t.byteAt b ≠ s.byteAt b) :
    Access.write b ∈ xs ∧ Writable s b := by
  induction h with
  | done h => exact absurd (byteAt_eq_of_bus h b) hb
  | @read a xs s u t hu _ ih =>
    have hbyte : u.byteAt b = s.byteAt b := by rw [byteAt_eq_of_bus hu, afterLoad_byteAt]
    have hparams : u.params = s.params := by rw [params_eq_of_bus hu, afterLoad_params]
    obtain ⟨hmem, hw⟩ := ih (by rwa [hbyte])
    exact ⟨List.mem_cons_of_mem _ hmem, (writable_congr hparams b).mp hw⟩
  | @write a v xs s u t hs hu _ ih =>
    have hparams : u.params = s.params := by rw [params_eq_of_bus hu, afterStore_params]
    by_cases hlater : t.byteAt b = u.byteAt b
    · rw [hlater, byteAt_eq_of_bus hu] at hb
      obtain ⟨rfl, hw⟩ := afterStore_byteAt_ne hs hb
      exact ⟨List.mem_cons_self, hw⟩
    · obtain ⟨hmem, hw⟩ := ih hlater
      exact ⟨List.mem_cons_of_mem _ hmem, (writable_congr hparams b).mp hw⟩

/-! ### What the platform sees -/

/-- The access lies at an IO location. -/
def AtIo (s : State) (x : Access) : Bool := s.region x.addr = .io

/-- From `s` to `t` the platform has seen, in order, those of the accesses that lie at IO locations, and nothing else. -/
def Sees (xs : List Access) (s t : State) : Prop :=
  ∃ new, t.ioLog = new ++ s.ioLog ∧ new.reverse.map accessOf = xs.filter (AtIo s)

theorem afterLoad_sees (a : Addr) (s : State) : Sees [.read a] s (afterLoad a s) := by
  by_cases hio : s.region a = .io
  · exact ⟨[.read a (loadValue a s)], by simp [afterLoad_io hio], by simp [AtIo, hio, accessOf]⟩
  · exact ⟨[], by simp [afterLoad_plain hio], by simp [AtIo, hio]⟩

theorem afterStore_sees (a : Addr) (v : Byte) (s : State) : Sees [.write a] s (afterStore a v s) := by
  by_cases hio : s.region a = .io
  · exact ⟨[.write a v], by simp [afterStore_io v hio], by simp [AtIo, hio, accessOf]⟩
  · refine ⟨[], ?_, by simp [AtIo, hio]⟩
    unfold afterStore
    split
    · rfl
    · contradiction
    · rfl
    · rfl

/-- What is seen of one access and then of others is seen of them all. -/
theorem Sees.cons {x : Access} {xs : List Access} {s u t : State} (hparams : u.params = s.params) (hx : Sees [x] s u)
    (hxs : Sees xs u t) : Sees (x :: xs) s t := by
  obtain ⟨now, hu, hnow⟩ := hx
  obtain ⟨later, ht, hlater⟩ := hxs
  have hAtIo : AtIo u = AtIo s := funext fun y => by simp only [AtIo, region_congr hparams]
  refine ⟨later ++ now, by rw [ht, hu, List.append_assoc], ?_⟩
  rw [List.reverse_append, List.map_append, hnow, hlater, hAtIo, ← List.filter_append]
  rfl

theorem Sees.of_bus {xs : List Access} {s t u : State} (h : Sees xs s t) (hu : u.bus = t.bus) : Sees xs s u := by
  obtain ⟨new, ht, hnew⟩ := h
  exact ⟨new, (ioLog_eq_of_bus hu).trans ht, hnew⟩

theorem Performs.sees {xs : List Access} {s t : State} (h : Performs xs s t) : Sees xs s t := by
  induction h with
  | done h => exact ⟨[], ioLog_eq_of_bus h, rfl⟩
  | read hu _ ih => exact .cons (by rw [params_eq_of_bus hu, afterLoad_params]) ((afterLoad_sees _ _).of_bus hu) ih
  | write _ hu _ ih => exact .cons (by rw [params_eq_of_bus hu, afterStore_params]) ((afterStore_sees _ _ _).of_bus hu) ih

/-! ### The shared patterns of the instructions -/

/-- Every next state that `x` answers is reached from `s` by these accesses. -/
def Makes (xs : List Access) (s : State) (x : Result State) : Prop := ∀ t, x = .next t → Performs xs s t

section
variable {xs : List Access} {i : Instr} {m : Mode} {s : State}

theorem Makes.next {t : State} (h : t.bus = s.bus) : Makes [] s (.next t) := by
  rintro _ ⟨⟩; exact .done h

theorem Makes.afterOffset {f : Addr → Result State} (hf : Makes xs s (f (modeAddr m s))) :
    Makes xs s (andThen (effAddr m s) f) := by
  intro t h
  obtain ⟨_, haddr, h⟩ := andThen_eq_next.mp h
  obtain ⟨-, rfl⟩ := effAddr_eq_next.mp haddr
  exact hf t h

theorem Makes.afterRead {a : Addr} {f : Byte × State → Result State} (hf : ∀ v u, Makes xs u (f (v, u))) :
    Makes (.read a :: xs) s (andThen (memRead a s) f) := by
  intro t h
  obtain ⟨_, hread, h⟩ := andThen_eq_next.mp h
  obtain ⟨-, rfl⟩ := memRead_eq_next.mp hread
  exact .read rfl (hf _ _ t h)

/-- The write of a MOV with its flags, and what follows it. -/
theorem Makes.afterMove {a : Addr} {v : Byte} {f : State → Result State} (hf : ∀ u, Makes xs u (f (u.withCcr (u.ccr.moved8 v)))) :
    Makes (.write a :: xs) s (andThen (moveTo a v s) f) := by
  intro t h
  rw [moveTo, andThen_assoc] at h
  obtain ⟨_, hwrite, h⟩ := andThen_eq_next.mp h
  obtain ⟨hs, rfl⟩ := memWrite_eq_next.mp hwrite
  exact .write hs rfl (hf _ t h)

theorem withOperand8_mem_makes {f : Byte → State → State} (hf : ∀ b u, (f b u).bus = u.bus) :
    Makes [.read (modeAddr m s)] s (withOperand8 (.mem m) f i s) := by
  intro t h
  obtain ⟨-, rfl⟩ := withOperand8_eq_next.mp h
  exact .read (hf ..) (.done rfl)

theorem withOperand16_mem_makes {f : Addr → State → State} (hf : ∀ w u, (f w u).bus = u.bus) :
    Makes [.read (modeAddr m s), .read (modeAddr m s + 1)] s (withOperand16 (.mem m) f i s) := by
  intro t h
  obtain ⟨-, rfl⟩ := withOperand16_eq_next.mp h
  exact .read rfl (.read (hf ..) (.done rfl))

theorem storeMode_makes {v : Byte} {f : State → Result State} (hf : ∀ u, Makes [] u (f u)) :
    Makes [.write (modeAddr m s)] s (andThen (storeMode m v s) f) := by
  intro t h
  obtain ⟨_, hstore, h⟩ := andThen_eq_next.mp h
  obtain ⟨⟨-, hs⟩, rfl⟩ := storeMode_eq_next.mp hstore
  exact .write hs rfl (hf _ t h)

theorem storeMode16_makes {v : Addr} {f : State → Result State} (hf : ∀ u, Makes [] u (f u)) :
    Makes [.write (modeAddr m s), .write (modeAddr m s + 1)] s (andThen (storeMode16 m v s) f) := by
  intro t h
  obtain ⟨_, hstore, h⟩ := andThen_eq_next.mp h
  obtain ⟨⟨-, hs, hs'⟩, rfl⟩ := storeMode16_eq_next.mp hstore
  exact .write hs rfl (.write (by simpa using hs') rfl (hf _ t h))

/-- The operation between the read and the write of a read-modify-write instruction makes no access. -/
theorem rmwMem_makes {op : UnaryOp} (hop : ∀ b u, (op b u).2.bus = u.bus) :
    Makes [.read (modeAddr m s), .write (modeAddr m s)] s (rmwMem op m i s) := by
  intro t h
  obtain ⟨⟨-, hs⟩, rfl⟩ := (rmwMem_eq_next fun b u => params_eq_of_bus (hop b u)).mp h
  have hs' : storeRefusal (modeAddr m s) (afterLoad (modeAddr m s) s) = none := by simpa using hs
  exact .read rfl (.write hs' rfl (.done (afterStore_bus_congr (hop ..) ..)))

end

/-! ### The operations make no access -/

theorem cautiousC_bus (s : State) : (cautiousC s).bus = s.bus := by unfold cautiousC; split <;> rfl
theorem cautiousV_bus (s : State) : (cautiousV s).bus = s.bus := by unfold cautiousV; split <;> rfl
theorem incOp_bus (b : Byte) (u : State) : (incOp b u).2.bus = u.bus := cautiousC_bus _
theorem decOp_bus (b : Byte) (u : State) : (decOp b u).2.bus = u.bus := cautiousC_bus _
theorem clearedFlags_bus (u : State) : (clearedFlags u).bus = u.bus := cautiousC_bus _
theorem testFlags_bus (b : Byte) (u : State) : (testFlags b u).bus = u.bus := cautiousC_bus _
theorem shiftTo_bus (r : Byte) (out : Bool) (u : State) : (shiftTo r out u).2.bus = u.bus := cautiousV_bus _

/-! ### Every instruction -/

theorem execMov_makes (f : MovForm) (s : State) : Makes (accesses (.mov f) s) s (execMov f s) := by
  cases f with
  | immDir ii dd => exact .afterMove fun _ => .next rfl
  | dirDir src dst | dirIxp dd | ixpDir dd => exact .afterRead fun _ _ => .afterMove fun _ => .next rfl

/-- TXS accesses no memory. -/
theorem execTxs_makes (s : State) : Makes [] s (execTxs s) := by
  cases hacc : s.params.acceptTxs with
  | true => rw [execTxs_accepted hacc]; exact .next rfl
  | false => rw [execTxs_refused hacc]; rintro t ⟨⟩

/-- An instruction that completes performs its accesses of the access table, in order, and nothing else (20_memory.md R57). -/
theorem exec_makes (i : Instr) (s : State) : Makes (accesses i s) s (exec i s) := by
  cases i with
  | lda o | ldx o | adc o | add o | sub o | sbc o | cmp o | cpx o | and o | ora o | eor o | bit o =>
    rw [exec]
    cases o with
    | imm ii => exact .next rfl
    | mem m => exact withOperand8_mem_makes fun _ _ => rfl
  | ldhx o | cphx o =>
    rw [exec]
    cases o with
    | imm jjkk => exact .next rfl
    | mem m => exact withOperand16_mem_makes fun _ _ => rfl
  | tst m => exact withOperand8_mem_makes testFlags_bus
  | sta m | stx m => exact storeMode_makes fun _ => .next rfl
  | sthx m => exact storeMode16_makes fun _ => .next rfl
  | bset n dd | bclr n dd => rw [exec]; exact rmwMem_makes fun _ _ => rfl
  | neg m | com m => exact rmwMem_makes fun _ _ => rfl
  | inc m => exact rmwMem_makes incOp_bus
  | dec m => exact rmwMem_makes decOp_bus
  | clr m => exact rmwMem_makes fun _ => clearedFlags_bus
  | lsl m | asl m | lsr m | asr m | rol m | ror m => exact rmwMem_makes fun _ _ => shiftTo_bus ..
  | mov f => exact execMov_makes f s
  | inca | incx => exact .next (incOp_bus _ s)
  | deca | decx => exact .next (decOp_bus _ s)
  | clra | clrx | clrh => exact .next (clearedFlags_bus s)
  | tsta | tstx => exact .next (testFlags_bus _ s)
  | lsla | lslx | asla | aslx | lsra | lsrx | asra | asrx | rola | rolx | rora | rorx => exact .next (shiftTo_bus _ _ s)
  | tax | txa | tap | tpa | nsa | ais | aix | mul | daa | nega | negx | coma | comx => exact .next rfl
  | div => rw [exec, execDiv]; split <;> exact .next rfl
  | jmp m => exact .afterOffset (.next rfl)
  | bra | brn | bhi | bls | bcc | bhs | bcs | blo | bne | beq | bhcc | bhcs => exact .next rfl
  | bpl | bmi | bmc | bms | bil | bih | bge | blt | bgt | ble => exact .next rfl
  | txs => exact execTxs_makes s

/-- Settles O20: a byte that changed was written. -/
theorem storesTouchOnlyTheirBytes : Obligations.StoresTouchOnlyTheirBytes := by
  intro i s t b h hb
  refine Decidable.byContradiction fun hne => ?_
  obtain ⟨hwrite, -⟩ := (exec_makes i s t h).byteAt_ne hne
  exact hb b hwrite rfl

/-- Settles O21: what the platform sees of the accesses performed. -/
theorem platformSeesAccessesInOrder : Obligations.PlatformSeesAccessesInOrder := fun i s t h => (exec_makes i s t h).sees

/-! ### The step -/

/-- A fetch keeps whatever every read keeps. -/
theorem fetchBytes_keeps {P : State → Prop} (hP : ∀ a s, P s → P (afterLoad a s)) {k : Nat} {a : Addr} {s t : State} {bs : List Byte}
    (h : fetchBytes k a s = .next (bs, t)) (hs : P s) : P t := by
  induction k generalizing a s t bs with
  | zero => cases h; exact hs
  | succ k ih =>
    obtain ⟨_, hread, h⟩ := andThen_eq_next.mp h
    obtain ⟨-, rfl⟩ := memRead_eq_next.mp hread
    obtain ⟨⟨bs', s2⟩, hrest, h⟩ := andThen_eq_next.mp h
    cases h
    exact ih hrest (hP _ _ hs)

theorem fetch_keeps {P : State → Prop} (hP : ∀ a s, P s → P (afterLoad a s)) {s t : State} {bs : List Byte}
    (h : fetch s = .next (bs, t)) (hs : P s) : P t := by
  obtain ⟨⟨b0, s1⟩, hread, h⟩ := andThen_eq_next.mp h
  obtain ⟨-, heq⟩ := memRead_eq_next.mp hread
  cases heq
  dsimp only at h
  split at h
  · obtain ⟨_, hread', h⟩ := andThen_eq_next.mp h
    obtain ⟨-, rfl⟩ := memRead_eq_next.mp hread'
    obtain ⟨_, hrest, h⟩ := andThen_eq_next.mp h
    cases h
    exact fetchBytes_keeps hP hrest (hP _ _ (hP _ _ hs))
  · obtain ⟨_, hrest, h⟩ := andThen_eq_next.mp h
    cases h
    exact fetchBytes_keeps hP hrest (hP _ _ hs)

theorem fetchInstr_keeps {P : State → Prop} (hP : ∀ a s, P s → P (afterLoad a s)) {s t : State} {i : Instr}
    (h : fetchInstr s = .next (i, t)) (hs : P s) : P t := by
  obtain ⟨⟨bs, s1⟩, hfetch, h⟩ := andThen_eq_next.mp h
  dsimp only at h
  split at h
  · cases h; exact fetch_keeps hP hfetch hs
  · exact absurd h (by simp)

theorem fetchInstr_mem {s t : State} {i : Instr} (h : fetchInstr s = .next (i, t)) : t.mem = s.mem :=
  fetchInstr_keeps (P := fun u => u.mem = s.mem) (fun a u hu => (afterLoad_mem a u).trans hu) h rfl

/-- A step performs the accesses of one instruction, from a state with the same memory and the same parameters. -/
theorem step_performs {s t : State} (h : step s = .next t) :
    ∃ i s1, s1.mem = s.mem ∧ s1.params = s.params ∧ Performs (accesses i s1) s1 t := by
  obtain ⟨-, i, s1, hfetch, hexec⟩ := step_eq_next.mp h
  exact ⟨i, s1, fetchInstr_mem hfetch, fetchInstr_params hfetch, exec_makes i s1 t hexec⟩

/-- Settles O15: the fetch leaves memory alone, and the accesses of the instruction keep its form. -/
theorem memoryStaysCanonical : Obligations.MemoryStaysCanonical := by
  intro s t hwf h
  obtain ⟨i, s1, hmem, -, hperf⟩ := step_performs h
  exact hperf.mem_wf (by rwa [hmem])

/-- Settles O17: a byte that changed was written in RAM outside the program text. -/
theorem stepChangesOnlyRam : Obligations.StepChangesOnlyRam := by
  intro s t a h hne
  obtain ⟨i, s1, hmem, hparams, hperf⟩ := step_performs h
  have hne' : t.byteAt a ≠ s1.byteAt a := by rwa [State.byteAt, State.byteAt, hmem]
  obtain ⟨-, hw⟩ := hperf.byteAt_ne hne'
  exact (writable_congr hparams a).mp hw

end Sys2Proof.Machine
end

section
/-! PROOFS. The encoding: decoding and encoding undo each other (O2, O3), the second spellings (O5), the eight-mode pattern (O6), known
words (O1). `decode_eq_ok` says once what the decoder reads: an opcode that has a row, and the operand bytes of the row. O3 checks every row
of the two pages against the encoder, and O2 finds every well-formed instruction its row. The opcodes
that R103 lists are those without a row. -/
namespace Sys2Proof

/-! ### Rows of the opcode pages -/

/-- The instruction that a row builds from two operand bytes, of which it uses as many as it has. -/
def Row.instr (b c : Byte) : Row → Instr
  | .none i => i
  | .one mk => mk b
  | .two mk => mk b c

/-- Those of two operand bytes that a row has. -/
def Row.taken (b c : Byte) : Row → List Byte
  | .none _ => []
  | .one _ => [b]
  | .two _ => [b, c]

theorem Row.length_taken (row : Row) (b c : Byte) : (row.taken b c).length = row.operandCount := by
  cases row <;> rfl

/-- A row reads its operand bytes and leaves the bytes after them. -/
theorem Row.decode_eq_ok {row : Row} {bs rest : List Byte} {i : Instr} :
    row.decode bs = .ok (i, rest) ↔ ∃ b c, row.instr b c = i ∧ bs = row.taken b c ++ rest := by
  constructor
  · intro h
    cases row with
    | none j => cases h; exact ⟨0, 0, rfl, rfl⟩
    | one mk =>
      cases bs with
      | nil => cases h
      | cons b bs => cases h; exact ⟨b, 0, rfl, rfl⟩
    | two mk =>
      match bs, h with
      | b :: c :: bs, rfl => exact ⟨b, c, rfl, rfl⟩
  · rintro ⟨b, c, rfl, rfl⟩
    cases row <;> rfl

/-- Two bytes after the opcode are enough for every row. -/
theorem Row.decode_of_two_le {bs : List Byte} (row : Row) (h : 2 ≤ bs.length) : ∃ i rest, row.decode bs = .ok (i, rest) := by
  match bs, h with
  | b :: c :: bs, _ => cases row <;> exact ⟨_, _, rfl⟩

theorem page1_preByte : page1 preByte = none := rfl

theorem ne_preByte_of_page1 {x : Byte} {row : Row} (h : page1 x = some row) : x ≠ preByte := by
  rintro rfl
  cases page1_preByte.symm.trans h

/-! ### What the decoder reads -/

/-- The bytes are an opcode that has a row and the operand bytes of the row, and the row builds the instruction from them. -/
inductive ReadFrom : List Byte → Instr → Prop where
  | ofPage1 {x : Byte} {row : Row} (h : page1 x = some row) (b c : Byte) : ReadFrom (x :: row.taken b c) (row.instr b c)
  | ofPage2 {x : Byte} {row : Row} (h : page2 x = some row) (b c : Byte) : ReadFrom (preByte :: x :: row.taken b c) (row.instr b c)

theorem decode_page1 {x : Byte} (hx : x ≠ preByte) (bs : List Byte) :
    decode (x :: bs) = match page1 x with
      | some row => row.decode bs
      | none => .error (.unspecifiedOpcode [x]) := if_neg hx

theorem decode_page2 (x : Byte) (bs : List Byte) :
    decode (preByte :: x :: bs) = match page2 x with
      | some row => row.decode bs
      | none => .error (.unspecifiedOpcode [preByte, x]) := rfl

/-- The decoder answers an instruction exactly where a byte string begins with bytes that the instruction is read from. -/
theorem decode_eq_ok {bs rest : List Byte} {i : Instr} :
    decode bs = .ok (i, rest) ↔ ∃ ws, ReadFrom ws i ∧ bs = ws ++ rest := by
  constructor
  · intro h
    match bs, h with
    | x :: bs, h =>
      by_cases hx : x = preByte
      · subst hx
        match bs, h with
        | y :: bs, h =>
          rw [decode_page2] at h
          split at h
          next row hrow =>
            obtain ⟨b, c, rfl, rfl⟩ := Row.decode_eq_ok.mp h
            exact ⟨_, .ofPage2 hrow b c, rfl⟩
          next => cases h
      · rw [decode_page1 hx] at h
        split at h
        next row hrow =>
          obtain ⟨b, c, rfl, rfl⟩ := Row.decode_eq_ok.mp h
          exact ⟨_, .ofPage1 hrow b c, rfl⟩
        next => cases h
  · rintro ⟨ws, hread, rfl⟩
    cases hread with
    | ofPage1 h b c =>
      rw [List.cons_append, decode_page1 (ne_preByte_of_page1 h), h]
      exact Row.decode_eq_ok.mpr ⟨b, c, rfl, rfl⟩
    | ofPage2 h b c =>
      rw [List.cons_append, List.cons_append, decode_page2, h]
      exact Row.decode_eq_ok.mpr ⟨b, c, rfl, rfl⟩

/-! ### Every row against the encoder -/

/-- The instruction is well-formed and in the primary spelling, and these bytes are its encoding. -/
structure SpelledBy (i : Instr) (bs : List Byte) : Prop where
  wf : i.wf = true
  primary : i.primary = i
  encode : encode i = bs

theorem nibble_cases {P : Nat → Prop} (h0 : P 0) (h1 : P 1) (h2 : P 2) (h3 : P 3) (h4 : P 4) (h5 : P 5) (h6 : P 6) (h7 : P 7)
    (h8 : P 8) (h9 : P 9) (h10 : P 10) (h11 : P 11) (h12 : P 12) (h13 : P 13) (h14 : P 14) (h15 : P 15) : ∀ n, n < 16 → P n
  | 0, _ => h0 | 1, _ => h1 | 2, _ => h2 | 3, _ => h3 | 4, _ => h4 | 5, _ => h5 | 6, _ => h6 | 7, _ => h7
  | 8, _ => h8 | 9, _ => h9 | 10, _ => h10 | 11, _ => h11 | 12, _ => h12 | 13, _ => h13 | 14, _ => h14 | 15, _ => h15
  | _ + 16, h => absurd h (by omega)

/-- A byte by its high and its low nibble, as the opcode tables are laid out. -/
theorem byte_cases {P : Byte → Prop} (h : ∀ hi, hi < 16 → ∀ lo, lo < 16 → P (BitVec.ofNat 8 (16 * hi + lo))) : ∀ x, P x := by
  intro x
  have hlt := x.isLt
  have hx := h (x.toNat / 16) (by omega) (x.toNat % 16) (by omega)
  rwa [Nat.div_add_mod, BitVec.ofNat_toNat, BitVec.setWidth_eq] at hx

/-- The opcodes of BSET and BCLR (30_encoding.md R95), written out. -/
theorem bitOpcode_values :
    bitOpcode 0 0 = 0x10#8 ∧ bitOpcode 0 1 = 0x11#8 ∧ bitOpcode 1 0 = 0x12#8 ∧ bitOpcode 1 1 = 0x13#8 ∧
    bitOpcode 2 0 = 0x14#8 ∧ bitOpcode 2 1 = 0x15#8 ∧ bitOpcode 3 0 = 0x16#8 ∧ bitOpcode 3 1 = 0x17#8 ∧
    bitOpcode 4 0 = 0x18#8 ∧ bitOpcode 4 1 = 0x19#8 ∧ bitOpcode 5 0 = 0x1A#8 ∧ bitOpcode 5 1 = 0x1B#8 ∧
    bitOpcode 6 0 = 0x1C#8 ∧ bitOpcode 6 1 = 0x1D#8 ∧ bitOpcode 7 0 = 0x1E#8 ∧ bitOpcode 7 1 = 0x1F#8 := by decide

/-- The table R101, row by row. The bytes of a 16-bit operand are joined by the row and split again by the encoder. -/
theorem page1_spelledBy : ∀ (x : Byte) {row : Row}, page1 x = some row → ∀ b c : Byte,
    SpelledBy (row.instr b c) (x :: row.taken b c) := by
  apply byte_cases
  apply nibble_cases <;> apply nibble_cases <;> intro row h b c <;> cases h
  all_goals exact ⟨rfl, rfl, by simp [Row.instr, Row.taken, Row.inh, Row.dir, Row.ext, Row.ix2, Row.ix1, Row.ix, encode,
    Operand8.encode, Mode.encodeWide, Mode.encodeRmw, Mode.operands, Operand16.encodeLdhx, Mode.encodeSthx, Operand16.encodeCphx,
    MovForm.encode, Mode.encodeJmp, bitOpcode_values]⟩

/-- The table R102, row by row. -/
theorem page2_spelledBy : ∀ (x : Byte) {row : Row}, page2 x = some row → ∀ b c : Byte,
    SpelledBy (row.instr b c) (preByte :: x :: row.taken b c) := by
  apply byte_cases
  apply nibble_cases <;> apply nibble_cases <;> intro row h b c <;> cases h
  all_goals exact ⟨rfl, rfl, by simp [Row.instr, Row.taken, Row.ix2, Row.ix1, Row.ix, Row.sp2, Row.sp1, encode, Operand8.encode,
    Mode.encodeWide, Mode.encodeRmw, Mode.operands, Operand16.encodeLdhx, Mode.encodeSthx, Operand16.encodeCphx]⟩

theorem ReadFrom.spelledBy {bs : List Byte} {i : Instr} (h : ReadFrom bs i) : SpelledBy i bs := by
  cases h with
  | ofPage1 h b c => exact page1_spelledBy _ h b c
  | ofPage2 h b c => exact page2_spelledBy _ h b c

/-- Settles O3: what the decoder reads is a row's, and every row agrees with the encoder. -/
theorem decodedBytesAreItsEncoding : Obligations.DecodedBytesAreItsEncoding := by
  intro bs rest i h
  obtain ⟨ws, hread, rfl⟩ := decode_eq_ok.mp h
  obtain ⟨hwf, hprimary, rfl⟩ := hread.spelledBy
  exact ⟨hwf, hprimary, rfl⟩

/-! ### The opcodes without a row: R103's list against the two pages -/

theorem page1_isNone_of_unlisted : (unlistedPage1.all fun x => (page1 x).isNone) = true := by decide

theorem page2_isSome_of_listed : (listedPage2.all fun x => (page2 x).isSome) = true := by decide

theorem unlisted_of_page1 : ∀ x : Byte, page1 x = none → x ∈ preByte :: unlistedPage1 := by
  apply byte_cases
  apply nibble_cases <;> apply nibble_cases <;> intro h <;> cases h
  all_goals decide

theorem listed_of_page2 : ∀ (x : Byte) {row : Row}, page2 x = some row → x ∈ listedPage2 := by
  apply byte_cases
  apply nibble_cases <;> apply nibble_cases <;> intro row h <;> cases h
  all_goals decide

theorem ne_preByte_of_unlisted {x : Byte} (h : x ∈ unlistedPage1) : x ≠ preByte := by
  rintro rfl
  revert h
  decide

section
variable {x : Byte}

theorem page1_eq_none (h : x ∈ unlistedPage1) : page1 x = none :=
  Option.isNone_iff_eq_none.mp (List.all_eq_true.mp page1_isNone_of_unlisted x h)

theorem page2_eq_none (h : x ∉ listedPage2) : page2 x = none :=
  Option.eq_none_iff_forall_ne_some.mpr fun _ hrow => h (listed_of_page2 x hrow)

theorem page1_eq_some (hx : x ≠ preByte) (h : x ∉ unlistedPage1) : ∃ row, page1 x = some row :=
  Option.ne_none_iff_exists'.mp fun hnone => not_or.mpr ⟨hx, h⟩ (List.mem_cons.mp (unlisted_of_page1 x hnone))

theorem page2_eq_some (h : x ∈ listedPage2) : ∃ row, page2 x = some row :=
  Option.isSome_iff_exists.mp (List.all_eq_true.mp page2_isSome_of_listed x h)

theorem decode_unlisted1 (h : x ∈ unlistedPage1) (rest : List Byte) : decode (x :: rest) = .error (.unspecifiedOpcode [x]) := by
  rw [decode_page1 (ne_preByte_of_unlisted h), page1_eq_none h]

theorem decode_unlisted2 (h : x ∉ listedPage2) (rest : List Byte) :
    decode (preByte :: x :: rest) = .error (.unspecifiedOpcode [preByte, x]) := by
  rw [decode_page2, page2_eq_none h]

end

/-! ### A row for every instruction -/

section
variable {x : Byte} {i : Instr}

theorem ReadFrom.inherent (h : page1 x = some (.none i)) : ReadFrom [x] i := .ofPage1 h 0 0

theorem ReadFrom.byte {mk : Byte → Instr} (h : page1 x = some (.one mk)) (b : Byte) : ReadFrom [x, b] (mk b) := .ofPage1 h b 0

theorem ReadFrom.bytes {mk : Byte → Byte → Instr} (h : page1 x = some (.two mk)) (b c : Byte) : ReadFrom [x, b, c] (mk b c) :=
  .ofPage1 h b c

/-- A row that joins its two operand bytes to a 16-bit operand. -/
theorem ReadFrom.word {mk : Addr → Instr} (h : page1 x = some (.two fun b c => mk (joinBytes b c))) (w : Addr) :
    ReadFrom [x, hiByte w, loByte w] (mk w) := by
  simpa [Row.instr, Row.taken] using ReadFrom.ofPage1 h (hiByte w) (loByte w)

end

/-- The row for a memory mode. -/
def Row.ofMode (mk : Mode → Instr) : Mode → Row
  | .dir _ => .dir mk
  | .ext _ => .ext mk
  | .ix2 _ => .ix2 mk
  | .ix1 _ => .ix1 mk
  | .ix => .ix mk
  | .sp2 _ => .sp2 mk
  | .sp1 _ => .sp1 mk

/-- The row for a mode reads the operand bytes that the encoder writes for it. -/
theorem Row.ofMode_operands (mk : Mode → Instr) (m : Mode) :
    ∃ b c, (Row.ofMode mk m).instr b c = mk m ∧ (Row.ofMode mk m).taken b c = m.operands := by
  cases m with
  | dir b | ix1 b | sp1 b => exact ⟨b, 0, rfl, rfl⟩
  | ix => exact ⟨0, 0, rfl, rfl⟩
  | ext w | ix2 w | sp2 w => exact ⟨hiByte w, loByte w, by simp [Row.ofMode, Row.ext, Row.ix2, Row.sp2, Row.instr], rfl⟩

theorem ReadFrom.mode1 (mk : Mode → Instr) (m : Mode) {x : Byte} (h : page1 x = some (.ofMode mk m)) :
    ReadFrom (x :: m.operands) (mk m) := by
  obtain ⟨b, c, hinstr, htaken⟩ := Row.ofMode_operands mk m
  exact hinstr ▸ htaken ▸ .ofPage1 h b c

theorem ReadFrom.mode2 (mk : Mode → Instr) (m : Mode) {x : Byte} (h : page2 x = some (.ofMode mk m)) :
    ReadFrom (preByte :: x :: m.operands) (mk m) := by
  obtain ⟨b, c, hinstr, htaken⟩ := Row.ofMode_operands mk m
  exact hinstr ▸ htaken ▸ .ofPage2 h b c

/-- The memory rows of the eight-mode pattern with low nibble `x` (42_add_sub_mul_div.md). -/
structure WideRows (mk : Mode → Instr) (x : Byte) : Prop where
  dir : page1 (0xB0#8 ||| x) = some (.dir mk)
  ext : page1 (0xC0#8 ||| x) = some (.ext mk)
  ix2 : page1 (0xD0#8 ||| x) = some (.ix2 mk)
  ix1 : page1 (0xE0#8 ||| x) = some (.ix1 mk)
  ix : page1 (0xF0#8 ||| x) = some (.ix mk)
  sp2 : page2 (0xD0#8 ||| x) = some (.sp2 mk)
  sp1 : page2 (0xE0#8 ||| x) = some (.sp1 mk)

theorem WideRows.readFrom {mk : Mode → Instr} {x : Byte} (h : WideRows mk x) (m : Mode) : ReadFrom (m.encodeWide x) (mk m) := by
  cases m with
  | dir dd => exact .mode1 mk _ h.dir
  | ext hhll => exact .mode1 mk _ h.ext
  | ix2 eeff => exact .mode1 mk _ h.ix2
  | ix1 ff => exact .mode1 mk _ h.ix1
  | ix => exact .mode1 mk _ h.ix
  | sp2 eeff => exact .mode2 mk _ h.sp2
  | sp1 ff => exact .mode2 mk _ h.sp1

theorem readFrom_operand8 {mk : Operand8 → Instr} {x : Byte} (himm : page1 (0xA0#8 ||| x) = some (.one fun ii => mk (.imm ii)))
    (hmem : WideRows (fun m => mk (.mem m)) x) (o : Operand8) : ReadFrom (o.encode x) (mk o) := by
  cases o with
  | imm ii => exact .byte himm ii
  | mem m => exact hmem.readFrom m

/-- The memory rows of the six-operand pattern with low nibble `y` (43_other_arithmetic.md R189). -/
structure RmwRows (mk : Mode → Instr) (y : Byte) : Prop where
  dir : page1 (0x30#8 ||| y) = some (.dir mk)
  ix1 : page1 (0x60#8 ||| y) = some (.ix1 mk)
  ix : page1 (0x70#8 ||| y) = some (.ix mk)
  sp1 : page2 (0x60#8 ||| y) = some (.sp1 mk)

theorem RmwRows.readFrom {mk : Mode → Instr} {y : Byte} (h : RmwRows mk y) {m : Mode} (hm : m.okRmw = true) :
    ReadFrom (m.encodeRmw y) (mk m) := by
  cases m with
  | dir dd => exact .mode1 mk _ h.dir
  | ix1 ff => exact .mode1 mk _ h.ix1
  | ix => exact .mode1 mk .ix h.ix
  | sp1 ff => exact .mode2 mk _ h.sp1
  | ext | ix2 | sp2 => cases hm

theorem readFrom_ldhx {o : Operand16} (h : (Instr.ldhx o).wf = true) : ReadFrom o.encodeLdhx (.ldhx o) := by
  cases o with
  | imm jjkk => exact .word (mk := fun w => .ldhx (.imm w)) rfl jjkk
  | mem m =>
    cases m with
    | dir dd | ext hhll => exact .mode1 (fun m => .ldhx (.mem m)) _ rfl
    | ix2 eeff | ix1 ff | sp1 ff => exact .mode2 (fun m => .ldhx (.mem m)) _ rfl
    | ix => exact .mode2 (fun m => .ldhx (.mem m)) .ix rfl
    | sp2 => cases h

theorem readFrom_sthx {m : Mode} (h : m.okPair = true) : ReadFrom m.encodeSthx (.sthx m) := by
  cases m with
  | dir dd | ext hhll => exact .mode1 .sthx _ rfl
  | sp1 ff => exact .mode2 .sthx _ rfl
  | ix2 | ix1 | ix | sp2 => cases h

theorem readFrom_cphx {o : Operand16} (h : (Instr.cphx o).wf = true) : ReadFrom o.encodeCphx (.cphx o) := by
  cases o with
  | imm jjkk => exact .word (mk := fun w => .cphx (.imm w)) rfl jjkk
  | mem m =>
    cases m with
    | dir dd | ext hhll => exact .mode1 (fun m => .cphx (.mem m)) _ rfl
    | sp1 ff => exact .mode2 (fun m => .cphx (.mem m)) _ rfl
    | ix2 | ix1 | ix | sp2 => cases h

theorem readFrom_jmp {m : Mode} (h : m.okJump = true) : ReadFrom m.encodeJmp (.jmp m) := by
  cases m with
  | dir dd | ext hhll | ix2 eeff | ix1 ff => exact .mode1 .jmp _ rfl
  | ix => exact .mode1 .jmp .ix rfl
  | sp2 | sp1 => cases h

theorem readFrom_mov (f : MovForm) : ReadFrom f.encode (.mov f) := by
  cases f with
  | dirDir src dst => exact .bytes (mk := fun src dst => .mov (.dirDir src dst)) rfl src dst
  | dirIxp dd => exact .byte (mk := fun dd => .mov (.dirIxp dd)) rfl dd
  | immDir ii dd => exact .bytes (mk := fun ii dd => .mov (.immDir ii dd)) rfl ii dd
  | ixpDir dd => exact .byte (mk := fun dd => .mov (.ixpDir dd)) rfl dd

theorem page1_bset (n : Fin 8) : page1 (bitOpcode n 0) = some (.one (.bset n)) := by
  match n with
  | 0 | 1 | 2 | 3 | 4 | 5 | 6 | 7 => rfl

theorem page1_bclr (n : Fin 8) : page1 (bitOpcode n 1) = some (.one (.bclr n)) := by
  match n with
  | 0 | 1 | 2 | 3 | 4 | 5 | 6 | 7 => rfl

/-- The bytes of a well-formed instruction are read as its primary spelling. -/
theorem encode_readFrom {i : Instr} (h : i.wf = true) : ReadFrom (encode i) i.primary := by
  cases i with
  | lda o | ldx o | adc o | add o | sub o | sbc o | cmp o | cpx o | and o | ora o | eor o | bit o =>
    exact readFrom_operand8 rfl ⟨rfl, rfl, rfl, rfl, rfl, rfl, rfl⟩ o
  | sta m | stx m => exact WideRows.readFrom ⟨rfl, rfl, rfl, rfl, rfl, rfl, rfl⟩ m
  | inc m | dec m | clr m | neg m | tst m | com m | lsl m | asl m | lsr m | asr m | rol m | ror m =>
    exact RmwRows.readFrom ⟨rfl, rfl, rfl, rfl⟩ h
  | ldhx o => exact readFrom_ldhx h
  | sthx m => exact readFrom_sthx h
  | cphx o => exact readFrom_cphx h
  | jmp m => exact readFrom_jmp h
  | mov f => exact readFrom_mov f
  | bset n dd => exact .byte (page1_bset n) dd
  | bclr n dd => exact .byte (page1_bclr n) dd
  | ais ii | aix ii => exact .byte rfl ii
  | bra rr | brn rr | bhi rr | bls rr | bcc rr | bhs rr | bcs rr | blo rr | bne rr | beq rr | bhcc rr => exact .byte rfl rr
  | bhcs rr | bpl rr | bmi rr | bmc rr | bms rr | bil rr | bih rr | bge rr | blt rr | bgt rr | ble rr => exact .byte rfl rr
  | tax | txa | tap | tpa | nsa | mul | div | daa | clrh | txs => exact .inherent rfl
  | inca | deca | clra | nega | tsta | coma | lsla | asla | lsra | asra | rola | rora => exact .inherent rfl
  | incx | decx | clrx | negx | tstx | comx | lslx | aslx | lsrx | asrx | rolx | rorx => exact .inherent rfl

/-- Settles O2: every well-formed instruction has a row, and the decoder reads what a row does. -/
theorem decodeEncodeRoundTrip : Obligations.DecodeEncodeRoundTrip := fun i _ h =>
  decode_eq_ok.mpr ⟨encode i, encode_readFrom h, rfl⟩

/-! ### Known words, second spellings, the eight-mode pattern -/

/-- Settles O1: the decoder runs on each word. -/
theorem knownWordsDecode : Obligations.KnownWordsDecode :=
  ⟨rfl, rfl, rfl, rfl, rfl, rfl, rfl, rfl, rfl, rfl, rfl, rfl, rfl⟩

/-- Settles O5: the meanings differ in the name of the instruction alone, of which only the length counts, and the lengths are the same. -/
theorem secondSpellingsRunAlike : Obligations.SecondSpellingsRunAlike :=
  ⟨fun _ => rfl, fun _ _ => rfl, fun _ => ⟨rfl, rfl⟩, fun _ => ⟨rfl, rfl⟩, ⟨rfl, rfl⟩, fun _ => ⟨rfl, rfl⟩, rfl, rfl, fun _ => rfl,
    rfl, rfl, fun _ => rfl, fun _ => ⟨rfl, rfl, fun _ => rfl⟩, fun _ => ⟨rfl, rfl, fun _ => rfl⟩⟩

/-- The operation follows the eight-mode pattern with this low nibble, and has the pattern's cycles. -/
structure EightMode (mk : Operand8 → Instr) (x : Byte) : Prop where
  encode : ∀ o, encode (mk o) = o.encode x
  cycles : ∀ o, (mk o).cycles = some o.cycles
  nibble : 0xF0#8 &&& x = 0#8

/-- A low nibble is put under a high one by a sum or by a disjunction alike. -/
theorem EightMode.or_eq_add {mk : Operand8 → Instr} {x : Byte} (h : EightMode mk x) {hi : Byte} (hhi : hi &&& 0xF0#8 = hi) :
    hi ||| x = hi + x := by
  refine (BitVec.add_eq_or_of_and_eq_zero hi x ?_).symm
  rw [← hhi, BitVec.and_assoc, h.nibble, BitVec.and_zero]

/-- Settles O6: the twelve operations follow the pattern, and the pattern has these bytes and cycles. -/
theorem eightModePattern : Obligations.EightModePattern := by
  intro p hp b c
  have hpattern : EightMode p.1 p.2 := by
    simp only [List.mem_cons, List.not_mem_nil, or_false] at hp
    rcases hp with rfl | rfl | rfl | rfl | rfl | rfl | rfl | rfl | rfl | rfl | rfl | rfl <;>
      exact ⟨fun _ => rfl, fun _ => rfl, rfl⟩
  have hor {hi : Byte} := hpattern.or_eq_add (hi := hi)
  simp [hpattern.encode, hpattern.cycles, Operand8.encode, Mode.encodeWide, Mode.operands, preByte, Operand8.cycles, Mode.cyclesRead,
    ← hor]

end Sys2Proof
end

section
/-! PROOFS. The step and the encoding: what a fetch reads and leaves (O7), a stored instruction runs (O8), an opcode without a row is
refused (O4), where pc goes (O10). `fetch_eq_next` says once what a fetch can answer: the bytes of one opcode and its row, read in order. -/
namespace Sys2Proof.Machine

open Sys2Proof

/-! ### The bytes that a fetch reads -/

/-- The bytes are an opcode and as many bytes as its row has, none for an opcode without a row (30_encoding.md R81). -/
inductive FetchUnit : List Byte → Prop where
  | ofPage1 {x : Byte} {ops : List Byte} (hx : x ≠ preByte) (h : ops.length = operandCount1 x) : FetchUnit (x :: ops)
  | ofPage2 {x : Byte} {ops : List Byte} (h : ops.length = operandCount2 x) : FetchUnit (preByte :: x :: ops)

theorem fetchUnit_of_readFrom {bs : List Byte} {i : Instr} (h : ReadFrom bs i) : FetchUnit bs := by
  cases h with
  | ofPage1 h b c => exact .ofPage1 (ne_preByte_of_page1 h) (by simp [operandCount1, h, Row.length_taken])
  | ofPage2 h b c => exact .ofPage2 (by simp [operandCount2, h, Row.length_taken])

/-- No byte is over: the first bytes say how many there are. -/
theorem FetchUnit.append_eq {bs rest : List Byte} (h : FetchUnit bs) (hrest : FetchUnit (bs ++ rest)) : rest = [] := by
  generalize hall : bs ++ rest = all at hrest
  cases h with
  | ofPage1 hx h =>
    cases hrest with
    | ofPage1 _ h' =>
      obtain ⟨rfl, rfl⟩ := List.cons.inj hall
      simpa [h] using h'
    | ofPage2 _ => exact absurd (List.cons.inj hall).1 hx
  | ofPage2 h =>
    cases hrest with
    | ofPage1 hx _ => exact absurd (List.cons.inj hall).1.symm hx
    | ofPage2 h' =>
      obtain ⟨rfl, rfl⟩ := List.cons.inj (List.cons.inj hall).2
      simpa [h] using h'

theorem fetchBytes_succ_eq_next {k : Nat} {a : Addr} {s t : State} {bs : List Byte} :
    fetchBytes (k + 1) a s = .next (bs, t) ↔
      s.region a ≠ .none ∧ ∃ bs', bs = loadValue a s :: bs' ∧ fetchBytes k (a + 1) (afterLoad a s) = .next (bs', t) := by
  constructor
  · intro h
    obtain ⟨_, hread, h⟩ := andThen_eq_next.mp h
    obtain ⟨hmapped, rfl⟩ := memRead_eq_next.mp hread
    obtain ⟨⟨bs', _⟩, hrest, h⟩ := andThen_eq_next.mp h
    cases h
    exact ⟨hmapped, bs', rfl, hrest⟩
  · rintro ⟨hmapped, bs', rfl, hrest⟩
    simp only [fetchBytes, memRead_mapped hmapped, hrest, andThen_next]

theorem fetchBytes_length {k : Nat} {a : Addr} {s t : State} {bs : List Byte} (h : fetchBytes k a s = .next (bs, t)) :
    bs.length = k := by
  induction k generalizing a s bs with
  | zero => cases h; rfl
  | succ k ih =>
    obtain ⟨-, bs', rfl, hrest⟩ := fetchBytes_succ_eq_next.mp h
    rw [List.length_cons, ih hrest]

/-- A fetch reads the bytes of one opcode and its row, in order. -/
theorem fetch_eq_next {s t : State} {bs : List Byte} :
    fetch s = .next (bs, t) ↔ FetchUnit bs ∧ fetchBytes bs.length s.pc s = .next (bs, t) := by
  have hpc : s.pc + 1 + 1 = s.pc + 2 := BitVec.add_assoc ..
  constructor
  · intro h
    obtain ⟨_, hread, h⟩ := andThen_eq_next.mp h
    obtain ⟨hmapped, rfl⟩ := memRead_eq_next.mp hread
    dsimp only at h
    split at h
    case isTrue hpre =>
      obtain ⟨_, hread', h⟩ := andThen_eq_next.mp h
      obtain ⟨hmapped', rfl⟩ := memRead_eq_next.mp hread'
      obtain ⟨⟨ops, _⟩, hops, h⟩ := andThen_eq_next.mp h
      cases h
      have hlength := fetchBytes_length hops
      refine ⟨hpre ▸ .ofPage2 hlength, fetchBytes_succ_eq_next.mpr ⟨hmapped, _, rfl, ?_⟩⟩
      refine fetchBytes_succ_eq_next.mpr ⟨hmapped', _, rfl, ?_⟩
      rw [hpc, hlength]
      exact hops
    case isFalse hpre =>
      obtain ⟨⟨ops, _⟩, hops, h⟩ := andThen_eq_next.mp h
      cases h
      have hlength := fetchBytes_length hops
      refine ⟨.ofPage1 hpre hlength, fetchBytes_succ_eq_next.mpr ⟨hmapped, _, rfl, ?_⟩⟩
      rw [hlength]
      exact hops
  · rintro ⟨hunit, h⟩
    cases hunit with
    | ofPage1 hx hlength =>
      obtain ⟨hmapped, _, heq, hops⟩ := fetchBytes_succ_eq_next.mp h
      obtain ⟨rfl, rfl⟩ := List.cons.inj heq
      rw [hlength] at hops
      simp only [fetch, memRead_mapped hmapped, andThen_next, if_neg hx, hops]
    | ofPage2 hlength =>
      obtain ⟨hmapped, _, heq, h⟩ := fetchBytes_succ_eq_next.mp h
      obtain ⟨hpre, rfl⟩ := List.cons.inj heq
      obtain ⟨hmapped', _, heq, hops⟩ := fetchBytes_succ_eq_next.mp h
      obtain ⟨rfl, rfl⟩ := List.cons.inj heq
      rw [hlength, hpc] at hops
      simp only [fetch, memRead_mapped hmapped, andThen_next, memRead_mapped hmapped', hops, hpre, if_true]

/-! ### What a fetch leaves -/

/-- The state after the platform has seen these reads, the first one first, each of them a draw. -/
def State.seen (s : State) (es : List IoEvent) : State :=
  { s with
    ioLog := es.reverse ++ s.ioLog
    draws := s.draws + es.length }

theorem State.seen_seen (s : State) (es fs : List IoEvent) : (s.seen es).seen fs = s.seen (es ++ fs) := by
  simp [State.seen, Nat.add_assoc]

theorem afterLoad_eq_seen (a : Addr) (s : State) : afterLoad a s = s.seen (fetchReads s a [loadValue a s]) := by
  by_cases hio : s.region a = .io
  · simp [afterLoad_io hio, fetchReads, hio, State.seen, State.logIo, State.drawn]
  · simp [afterLoad_plain hio, fetchReads, hio, State.seen]

theorem fetchReads_congr {s t : State} (h : t.params = s.params) (a : Addr) (bs : List Byte) :
    fetchReads t a bs = fetchReads s a bs := by
  induction bs generalizing a with
  | nil => rfl
  | cons b bs ih => simp only [fetchReads, region_congr h, ih]

theorem fetchReads_cons (s : State) (a : Addr) (b : Byte) (bs : List Byte) :
    fetchReads s a (b :: bs) = fetchReads s a [b] ++ fetchReads s (a + 1) bs := by
  by_cases hio : s.region a = .io <;> simp [fetchReads, hio]

theorem fetchBytes_seen {k : Nat} {a : Addr} {s t : State} {bs : List Byte} (h : fetchBytes k a s = .next (bs, t)) :
    t = s.seen (fetchReads s a bs) := by
  induction k generalizing a s bs with
  | zero => cases h; rfl
  | succ k ih =>
    obtain ⟨-, bs', rfl, hrest⟩ := fetchBytes_succ_eq_next.mp h
    rw [ih hrest, fetchReads_congr (afterLoad_params a s), afterLoad_eq_seen, State.seen_seen, ← fetchReads_cons]

/-- Bytes in RAM or NVM are fetched as they stand, and the fetch leaves no trace. -/
theorem fetchBytes_plain {a : Addr} {s : State} {bs : List Byte} (h : BytesAt s a bs) :
    fetchBytes bs.length a s = .next (bs, s) := by
  induction bs generalizing a with
  | nil => rfl
  | cons b bs ih =>
    obtain ⟨hplain, rfl, hrest⟩ := h
    simp only [List.length_cons, fetchBytes, memRead_plain hplain, andThen_next, ih hrest]

theorem fetch_plain {s : State} {bs : List Byte} (hunit : FetchUnit bs) (h : BytesAt s s.pc bs) : fetch s = .next (bs, s) :=
  fetch_eq_next.mpr ⟨hunit, fetchBytes_plain h⟩

/-! ### The step -/

section
variable {s s1 : State} {bs : List Byte} (hhalt : s.params.haltAddr ≠ some s.pc) (hfetch : fetch s = .next (bs, s1))
include hhalt hfetch

theorem step_decoded {i : Instr} {rest : List Byte} (h : decode bs = .ok (i, rest)) : step s = exec i s1 := by
  simp [step, hhalt, fetchInstr, hfetch, h]

theorem step_undecodable {e : DecodeError} (h : decode bs = .error e) : step s = .refused (.unspecifiedOpcode bs) := by
  simp [step, hhalt, fetchInstr, hfetch, h]

end

/-- Settles O7: a fetch reads one instruction's bytes, and leaves the reads of those that lie at IO locations. -/
theorem stepRunsDecodedInstruction : Obligations.StepRunsDecodedInstruction := by
  intro s s1 bs rest i hhalt hfetch hdecode
  obtain ⟨hunit, hbytes⟩ := fetch_eq_next.mp hfetch
  obtain ⟨ws, hread, rfl⟩ := decode_eq_ok.mp hdecode
  exact ⟨step_decoded hhalt hfetch hdecode, (fetchUnit_of_readFrom hread).append_eq hunit, hread.spelledBy.wf,
    fetchBytes_seen hbytes⟩

/-- Settles O8: the bytes are fetched as they stand, and decode to the primary spelling. -/
theorem stepRunsStoredInstruction : Obligations.StepRunsStoredInstruction := by
  intro s i hhalt hwf hbytes
  have hread := encode_readFrom hwf
  exact step_decoded hhalt (fetch_plain (fetchUnit_of_readFrom hread) hbytes) (decode_eq_ok.mpr ⟨_, hread, (List.append_nil _).symm⟩)

/-! ### Opcodes without a row -/

theorem fetchUnit_unlisted1 {x : Byte} (h : x ∈ unlistedPage1) : FetchUnit [x] :=
  .ofPage1 (ne_preByte_of_unlisted h) (by simp [operandCount1, page1_eq_none h])

theorem fetchUnit_unlisted2 {x : Byte} (h : x ∉ listedPage2) : FetchUnit [preByte, x] :=
  .ofPage2 (by simp [operandCount2, page2_eq_none h])

/-- Settles O4: an opcode without a row has no operand bytes, so a step fetches it alone and the decoder refuses it. -/
theorem unlistedOpcodesRefused : Obligations.UnlistedOpcodesRefused := by
  refine ⟨fun x => decode_unlisted1, fun x hx h rest hlen => ?_, fun x => decode_unlisted2, fun x h rest hlen => ?_,
    fun s hhalt hplain h => ?_, fun s hhalt hplain hplain' hpre h => ?_⟩
  · obtain ⟨row, hrow⟩ := page1_eq_some hx h
    rw [decode_page1 hx, hrow]
    exact row.decode_of_two_le hlen
  · obtain ⟨row, hrow⟩ := page2_eq_some h
    rw [decode_page2, hrow]
    exact row.decode_of_two_le hlen
  · exact step_undecodable hhalt (fetch_plain (fetchUnit_unlisted1 h) ⟨hplain, rfl, trivial⟩) (decode_unlisted1 h [])
  · exact step_undecodable hhalt (fetch_plain (fetchUnit_unlisted2 h) ⟨hplain, hpre, hplain', rfl, trivial⟩) (decode_unlisted2 h [])

end Sys2Proof.Machine
end

section
/-! PROOFS. Where pc goes (O10), by one case split over the instructions: only JMP and the branches do not end at `next`. -/
namespace Sys2Proof.Laws.EncodedLength

/-- The laws of the constructors, put together. -/
theorem encode_length : ∀ i, Statement i
  | .lda o => lda o | .ldhx o => ldhx o | .ldx o => ldx o | .sta m => sta m | .sthx m => sthx m | .stx m => stx m
  | .bset n dd => bset n dd | .bclr n dd => bclr n dd | .mov f => mov f
  | .tax => tax | .txa => txa | .tap => tap | .tpa => tpa | .nsa => nsa
  | .adc o => adc o | .add o => add o | .ais ii => ais ii | .aix ii => aix ii | .sub o => sub o | .sbc o => sbc o
  | .mul => mul | .div => div
  | .inc m => inc m | .inca => inca | .incx => incx | .dec m => dec m | .deca => deca | .decx => decx
  | .clr m => clr m | .clra => clra | .clrx => clrx | .clrh => clrh | .neg m => neg m | .nega => nega | .negx => negx
  | .cmp o => cmp o | .cphx o => cphx o | .cpx o => cpx o | .tst m => tst m | .tsta => tsta | .tstx => tstx | .daa => daa
  | .and o => and o | .ora o => ora o | .eor o => eor o | .com m => com m | .coma => coma | .comx => comx | .bit o => bit o
  | .lsl m => lsl m | .lsla => lsla | .lslx => lslx | .asl m => asl m | .asla => asla | .aslx => aslx
  | .lsr m => lsr m | .lsra => lsra | .lsrx => lsrx | .asr m => asr m | .asra => asra | .asrx => asrx
  | .rol m => rol m | .rola => rola | .rolx => rolx | .ror m => ror m | .rora => rora | .rorx => rorx
  | .jmp m => jmp m | .bra rr => bra rr | .brn rr => brn rr | .bhi rr => bhi rr | .bls rr => bls rr
  | .bcc rr => bcc rr | .bhs rr => bhs rr | .bcs rr => bcs rr | .blo rr => blo rr | .bne rr => bne rr | .beq rr => beq rr
  | .bhcc rr => bhcc rr | .bhcs rr => bhcs rr | .bpl rr => bpl rr | .bmi rr => bmi rr | .bmc rr => bmc rr | .bms rr => bms rr
  | .bil rr => bil rr | .bih rr => bih rr | .bge rr => bge rr | .blt rr => blt rr | .bgt rr => bgt rr | .ble rr => ble rr
  | .txs => txs

end Sys2Proof.Laws.EncodedLength

namespace Sys2Proof.Machine

open Sys2Proof

/-! ### Outcomes that end at `next` -/

/-- Every next state that `x` answers has its pc at the byte after the instruction `i` at the pc of `s` (30_encoding.md R83). -/
def EndsAtNext (i : Instr) (s : State) (x : Result State) : Prop := ∀ t, x = .next t → t.pc = nextAddr i s

section
variable {i : Instr} {m : Mode} {s : State}

theorem EndsAtNext.finish {u : State} (h : u.pc = s.pc) : EndsAtNext i s (finish i u) := by
  rintro _ ⟨⟩
  simp [nextAddr, h]

theorem EndsAtNext.afterOffset {f : Addr → Result State} (hf : ∀ a, EndsAtNext i s (f a)) :
    EndsAtNext i s (andThen (effAddr m s) f) := by
  intro t h
  obtain ⟨a, -, h⟩ := andThen_eq_next.mp h
  exact hf a t h

theorem EndsAtNext.afterRead {a : Addr} {u : State} {f : Byte × State → Result State} (hu : u.pc = s.pc)
    (hf : ∀ v w, w.pc = s.pc → EndsAtNext i s (f (v, w))) : EndsAtNext i s (andThen (memRead a u) f) := by
  intro t h
  obtain ⟨_, hread, h⟩ := andThen_eq_next.mp h
  obtain ⟨-, rfl⟩ := memRead_eq_next.mp hread
  exact hf _ _ (by simp [hu]) t h

theorem EndsAtNext.afterWrite {a : Addr} {v : Byte} {u : State} {f : State → Result State} (hu : u.pc = s.pc)
    (hf : ∀ w, w.pc = s.pc → EndsAtNext i s (f w)) : EndsAtNext i s (andThen (memWrite a v u) f) := by
  intro t h
  obtain ⟨_, hwrite, h⟩ := andThen_eq_next.mp h
  obtain ⟨-, rfl⟩ := memWrite_eq_next.mp hwrite
  exact hf _ (by simp [hu]) t h

/-- The write of a MOV with its flags, and what follows it. -/
theorem EndsAtNext.afterMove {a : Addr} {v : Byte} {u : State} {f : State → Result State} (hu : u.pc = s.pc)
    (hf : ∀ w, w.pc = s.pc → EndsAtNext i s (f w)) : EndsAtNext i s (andThen (moveTo a v u) f) := by
  rw [moveTo, andThen_assoc]
  exact .afterWrite hu fun w hw => hf _ hw

theorem withOperand8_endsAtNext {o : Operand8} {f : Byte → State → State} (hf : ∀ b u, (f b u).pc = u.pc) :
    EndsAtNext i s (withOperand8 o f i s) := by
  cases o with
  | imm ii => exact .finish (hf ii s)
  | mem m =>
    rw [withOperand8, readOperand8, andThen_assoc]
    exact .afterOffset fun _ => .afterRead rfl fun v w hw => .finish ((hf v w).trans hw)

theorem withOperand16_endsAtNext {o : Operand16} {f : Addr → State → State} (hf : ∀ w u, (f w u).pc = u.pc) :
    EndsAtNext i s (withOperand16 o f i s) := by
  cases o with
  | imm jjkk => exact .finish (hf jjkk s)
  | mem m =>
    simp only [withOperand16, readOperand16, memRead16, andThen_assoc]
    exact .afterOffset fun _ => .afterRead rfl fun _ w hw => .afterRead hw fun _ w' hw' => .finish ((hf _ w').trans hw')

theorem rmwMem_endsAtNext {op : UnaryOp} (hop : ∀ b u, (op b u).2.pc = u.pc) : EndsAtNext i s (rmwMem op m i s) :=
  .afterOffset fun _ => .afterRead rfl fun v w hw => .afterWrite ((hop v w).trans hw) fun _ hu => .finish hu

theorem storeMode_endsAtNext {v : Byte} {f : State → Result State} (hf : ∀ u, u.pc = s.pc → EndsAtNext i s (f u)) :
    EndsAtNext i s (andThen (storeMode m v s) f) := by
  rw [storeMode, andThen_assoc]
  exact .afterOffset fun _ => .afterWrite rfl hf

theorem storeMode16_endsAtNext {v : Addr} {f : State → Result State} (hf : ∀ u, u.pc = s.pc → EndsAtNext i s (f u)) :
    EndsAtNext i s (andThen (storeMode16 m v s) f) := by
  simp only [storeMode16, memWrite16, andThen_assoc]
  exact .afterOffset fun _ => .afterWrite rfl fun _ hu => .afterWrite hu hf

end

theorem cautiousC_pc (s : State) : (cautiousC s).pc = s.pc := by unfold cautiousC; split <;> rfl
theorem cautiousV_pc (s : State) : (cautiousV s).pc = s.pc := by unfold cautiousV; split <;> rfl
theorem incOp_pc (b : Byte) (u : State) : (incOp b u).2.pc = u.pc := cautiousC_pc _
theorem decOp_pc (b : Byte) (u : State) : (decOp b u).2.pc = u.pc := cautiousC_pc _
theorem clearedFlags_pc (u : State) : (clearedFlags u).pc = u.pc := cautiousC_pc _
theorem testFlags_pc (b : Byte) (u : State) : (testFlags b u).pc = u.pc := cautiousC_pc _
theorem shiftTo_pc (r : Byte) (out : Bool) (u : State) : (shiftTo r out u).2.pc = u.pc := cautiousV_pc _

theorem divResult_pc (s : State) : (if divFails s then divOpen s else divDone s).pc = s.pc := by
  split <;> rfl

theorem execMov_endsAtNext (f : MovForm) (s : State) : EndsAtNext (.mov f) s (execMov f s) := by
  cases f with
  | immDir ii dd => exact .afterMove rfl fun _ hu => .finish hu
  | dirDir src dst | dirIxp dd | ixpDir dd => exact .afterRead rfl fun _ _ hw => .afterMove hw fun _ hu => .finish hu

theorem execTxs_endsAtNext (s : State) : EndsAtNext .txs s (execTxs s) := by
  cases hacc : s.params.acceptTxs with
  | true => rw [execTxs_accepted hacc]; exact .finish rfl
  | false => rw [execTxs_refused hacc]; rintro t ⟨⟩

/-! ### Every instruction -/

/-- Where a branch of two bytes goes, as integer arithmetic (46_jump_branch.md R221). -/
theorem branchAddr_eq_branchGoal {i : Instr} (hsize : i.size = 2) (taken : Bool) (rr : Byte) (s : State) :
    branchAddr taken rr i s = branchGoal taken rr s := by
  have hsext : sext16 rr = BitVec.ofInt 16 rr.toInt := rfl
  cases taken <;> simp [branchAddr, branchGoal, nextAddr, hsize, hsext, BitVec.ofInt_add]

/-- The pc that an instruction may leave: JMP, a branch taken or not taken, any other instruction (10_state.md R29). -/
def PcRule (i : Instr) (s : State) (pc : Addr) : Prop :=
  match i with
  | .jmp m => pc = modeAddr m s
  | _ =>
    match i.branchOffset with
    | some rr => ∃ taken, pc = branchGoal taken rr s
    | none => pc = nextAddr i s

theorem branch_pc {i : Instr} {cond : Bool} {rr : Byte} {s t u : State} (hsize : i.size = 2) (hu : u.pc = s.pc)
    (h : branch cond rr i u = .next t) : ∃ taken, t.pc = branchGoal taken rr s := by
  cases h
  refine ⟨cond, ?_⟩
  rw [State.withPC_pc, branchAddr_eq_branchGoal hsize, branchGoal, branchGoal, hu]

theorem execJmp_pc {m : Mode} {s t : State} (h : execJmp m s = .next t) : t.pc = modeAddr m s := by
  obtain ⟨_, haddr, h⟩ := andThen_eq_next.mp h
  obtain ⟨-, rfl⟩ := effAddr_eq_next.mp haddr
  cases h
  rfl

theorem exec_pcRule (i : Instr) (s : State) : ∀ t, exec i s = .next t → PcRule i s t.pc := by
  cases i with
  | lda o | ldx o | adc o | add o | sub o | sbc o | cmp o | cpx o | and o | ora o | eor o | bit o =>
    rw [exec]; exact withOperand8_endsAtNext fun _ _ => rfl
  | ldhx o | cphx o => rw [exec]; exact withOperand16_endsAtNext fun _ _ => rfl
  | tst m => exact withOperand8_endsAtNext testFlags_pc
  | sta m | stx m => exact storeMode_endsAtNext fun _ hu => .finish hu
  | sthx m => exact storeMode16_endsAtNext fun _ hu => .finish hu
  | bset n dd | bclr n dd => rw [exec]; exact rmwMem_endsAtNext fun _ _ => rfl
  | neg m | com m => exact rmwMem_endsAtNext fun _ _ => rfl
  | inc m => exact rmwMem_endsAtNext incOp_pc
  | dec m => exact rmwMem_endsAtNext decOp_pc
  | clr m => exact rmwMem_endsAtNext fun _ => clearedFlags_pc
  | lsl m | asl m | lsr m | asr m | rol m | ror m => exact rmwMem_endsAtNext fun _ _ => shiftTo_pc ..
  | mov f => exact execMov_endsAtNext f s
  | inca | incx => exact EndsAtNext.finish (incOp_pc _ s)
  | deca | decx => exact EndsAtNext.finish (decOp_pc _ s)
  | clra | clrx | clrh => exact EndsAtNext.finish (clearedFlags_pc s)
  | tsta | tstx => exact EndsAtNext.finish (testFlags_pc _ s)
  | lsla | lslx | asla | aslx | lsra | lsrx | asra | asrx | rola | rolx | rora | rorx =>
    exact EndsAtNext.finish (shiftTo_pc _ _ s)
  | tax | txa | tap | tpa | nsa | ais | aix | mul | daa | nega | negx | coma | comx => exact EndsAtNext.finish rfl
  | div => exact EndsAtNext.finish (divResult_pc s)
  | jmp m => exact fun _ => execJmp_pc
  | bra | brn | bhi | bls | bcc | bhs | bcs | blo | bne | beq | bhcc | bhcs => exact fun _ => branch_pc rfl rfl
  | bpl | bmi | bmc | bms | bil | bih | bge | blt | bgt | ble => exact fun _ => branch_pc rfl rfl
  | txs => exact execTxs_endsAtNext s

theorem nextAddr_eq_ofNat {i : Instr} (h : i.wf = true) (s : State) :
    nextAddr i s = BitVec.ofNat 16 (s.pc.toNat + (encode i).length) := by
  rw [Laws.EncodedLength.encode_length i h, nextAddr, BitVec.ofNat_add, BitVec.ofNat_toNat, BitVec.setWidth_eq]

/-- Settles O10, by the case split `exec_pcRule`. -/
theorem pcAfterInstruction : Obligations.PcAfterInstruction := by
  intro i s t hwf h
  have hrule := exec_pcRule i s t h
  unfold PcRule at hrule
  split
  next m => exact hrule
  next hjmp =>
    split at hrule
    next m => exact absurd rfl (hjmp m)
    next =>
      cases hoffset : i.branchOffset with
      | some rr =>
        rw [hoffset] at hrule
        obtain ⟨_ | _, hpc⟩ := hrule
        · exact .inr hpc
        · exact .inl hpc
      | none =>
        rw [hoffset] at hrule
        exact hrule.trans (nextAddr_eq_ofNat hwf s)

end Sys2Proof.Machine
end

section
/-! PROOFS. Loads and stores: LDA and LDX (O25), LDHX (O26), STA and STX (O27), STHX (O28). An instruction that reads an operand, and one
that stores a byte or a pair and sets the flags by it, are each run once for every mode; the loads and the stores are instances. -/
namespace Sys2Proof.Machine

open Sys2Proof

/-! ### N and Z of what is moved -/

/-- N and Z of a byte, in the spelling of the statements. -/
theorem Ccr.nz8_eq_signAndZero (f : Ccr) (r : Byte) : f.nz8 r = signAndZero r f := by
  simp only [Ccr.nz8, signAndZero, BitVec.msb_eq_getLsbD_last, Bool.beq_eq_decide_eq]

theorem Ccr.moved8_eq_movedFlags (f : Ccr) (r : Byte) : f.moved8 r = movedFlags r f := by
  rw [Ccr.moved8, Ccr.nz8_eq_signAndZero, movedFlags]

/-- V clear, N bit 15, Z all sixteen bits (D24; log 17). -/
theorem Ccr.moved16_eq (f : Ccr) (w : Addr) : f.moved16 w = { f with v := false, n := w.getLsbD 15, z := decide (w = 0) } := by
  simp only [Ccr.moved16, Ccr.nz16, BitVec.msb_eq_getLsbD_last, Bool.beq_eq_decide_eq]

/-- The sign of a joined word is that of its high byte. -/
theorem joinBytes_getLsbD_15 (hi lo : Byte) : (joinBytes hi lo).getLsbD 15 = hi.getLsbD 7 := by
  rw [joinBytes, BitVec.getLsbD_append]
  rfl

/-- A joined word is zero exactly when both bytes are. -/
theorem joinBytes_eq_zero {hi lo : Byte} : joinBytes hi lo = 0 ↔ hi = 0 ∧ lo = 0 := by
  constructor
  · intro h
    exact ⟨by rw [← hiByte_joinBytes hi lo, h]; rfl, by rw [← loByte_joinBytes hi lo, h]; rfl⟩
  · rintro ⟨rfl, rfl⟩
    rfl

/-- Of a pair of bytes the flags are N of the high byte, and Z where both are zero. -/
theorem Ccr.moved16_joinBytes (f : Ccr) (hi lo : Byte) :
    f.moved16 (joinBytes hi lo) = { f with v := false, n := hi.getLsbD 7, z := decide (hi = 0 ∧ lo = 0) } := by
  simp only [Ccr.moved16_eq, joinBytes_getLsbD_15, joinBytes_eq_zero]

/-! ### Instructions that only read an operand -/

@[simp] theorem operand8After_pc (o : Operand8) (s : State) : (operand8After o s).pc = s.pc := by
  cases o with
  | imm ii => rfl
  | mem m => exact afterLoad_pc _ s

@[simp] theorem operand16After_pc (o : Operand16) (s : State) : (operand16After o s).pc = s.pc := by
  cases o with
  | imm jjkk => rfl
  | mem m => exact (afterLoad_pc _ _).trans (afterLoad_pc _ s)

/-- An instruction whose meaning is `withOperand8` of an effect that leaves pc alone runs in every mode. -/
theorem operandRuns_of_withOperand8 {mk : Operand8 → Instr} {effect : Byte → State → State}
    (hexec : ∀ o s, exec (mk o) s = withOperand8 o effect (mk o) s) (hpc : ∀ b u, (effect b u).pc = u.pc) : OperandRuns mk effect := by
  intro o s hready
  rw [hexec, withOperand8_eq_next.mpr ⟨hready, rfl⟩, nextAddr, hpc, operand8After_pc]
  rfl

/-- The same with a 16-bit operand. -/
theorem operand16Runs_of_withOperand16 {mk : Operand16 → Instr} {effect : Addr → State → State}
    (hexec : ∀ o s, exec (mk o) s = withOperand16 o effect (mk o) s) (hpc : ∀ w u, (effect w u).pc = u.pc) :
    Operand16Runs mk effect := by
  intro o s hready
  rw [hexec, withOperand16_eq_next.mpr ⟨hready, rfl⟩, nextAddr, hpc, operand16After_pc]
  rfl

/-- Settles O25: the flags that the model sets are those of the statement. -/
theorem loadsReplaceRegister : Obligations.LoadsReplaceRegister := by
  refine ⟨operandRuns_of_withOperand8 (fun o s => ?lda) fun _ _ => rfl, operandRuns_of_withOperand8 (fun o s => ?ldx) fun _ _ => rfl⟩
  case lda => simp only [← Ccr.moved8_eq_movedFlags]; rfl
  case ldx => simp only [← Ccr.moved8_eq_movedFlags]; rfl

/-- Settles O26: the bytes and the flags of the word that the model sets are those of the statement. -/
theorem ldhxLoadsPair : Obligations.LdhxLoadsPair := by
  refine operand16Runs_of_withOperand16 (fun o s => ?_) fun _ _ => rfl
  simp only [← hiByte_eq_ofNat, ← loByte_eq_ofNat, ← Ccr.moved16_eq]
  rfl

/-! ### Instructions that store and set the flags by what they store -/

/-- A byte store that is ready, with the flags of the byte stored, in every mode. -/
theorem storeMode_moved_ready {m : Mode} {s : State} (v : Byte) (i : Instr) (h : StoreReady m s) :
    (andThen (storeMode m v s) fun u => finish i (u.withCcr (u.ccr.moved8 v))) =
      .next { afterStore (modeAddr m s) v s with ccr := movedFlags v s.ccr, pc := nextAddr i s } := by
  rw [storeMode_eq_next.mpr ⟨h, rfl⟩, andThen_next, Ccr.moved8_eq_movedFlags, afterStore_ccr, finish, nextAddr, State.withCcr_pc,
    afterStore_pc]
  rfl

/-- A store of a pair that is ready, high byte first, with the flags of the pair. -/
theorem storeMode16_moved_ready {m : Mode} {s : State} (hi lo : Byte) (i : Instr) (h : Store16Ready m s) :
    (andThen (storeMode16 m (joinBytes hi lo) s) fun u => finish i (u.withCcr (u.ccr.moved16 (joinBytes hi lo)))) =
      .next { afterStore (modeAddr m s + 1) lo (afterStore (modeAddr m s) hi s) with
        ccr := { s.ccr with v := false, n := hi.getLsbD 7, z := decide (hi = 0 ∧ lo = 0) }, pc := nextAddr i s } := by
  rw [storeMode16_eq_next.mpr ⟨h, rfl⟩, andThen_next, hiByte_joinBytes, loByte_joinBytes, Ccr.moved16_joinBytes, afterStore_ccr,
    afterStore_ccr, finish, nextAddr, State.withCcr_pc, afterStore_pc, afterStore_pc]
  rfl

/-- Settles O27: A and X are each stored, with the flags of the byte. -/
theorem storesWriteRegister : Obligations.StoresWriteRegister := fun _ s h =>
  ⟨storeMode_moved_ready s.a _ h, storeMode_moved_ready s.x _ h⟩

/-- Settles O28: the word that STHX stores is H:X. -/
theorem sthxStoresPair : Obligations.SthxStoresPair := fun _ s h => storeMode16_moved_ready s.h s.x _ h

end Sys2Proof.Machine
end

section
/-! PROOFS. Bits, moves, transfers: BSET and BCLR (O29), MOV (O30), TAX, TXA and NSA (O31), TAP and TPA (O32). A byte is followed bit by
bit where one bit is changed, and as a number where bytes and bits are joined. -/
namespace Sys2Proof.Machine

open Sys2Proof

/-! ### One bit of a byte -/

/-- The mask `1 << n` has one bit set. -/
theorem getLsbD_bitMask (n : Fin 8) (k : Nat) : (1#8 <<< n.val).getLsbD k = decide (k = n.val) := by
  rw [← BitVec.twoPow_eq, BitVec.getLsbD_twoPow, decide_eq_true n.isLt, Bool.true_and, decide_eq_decide]
  exact eq_comm

theorem setBit_getLsbD (n : Fin 8) (t : Byte) (k : Nat) :
    (setBit n t).getLsbD k = if k = n.val then true else t.getLsbD k := by
  rw [setBit, BitVec.getLsbD_or, getLsbD_bitMask]
  split <;> simp [*]

theorem clearBit_getLsbD (n : Fin 8) (t : Byte) {k : Nat} (hk : k < 8) :
    (clearBit n t).getLsbD k = if k = n.val then false else t.getLsbD k := by
  rw [clearBit, BitVec.getLsbD_and, BitVec.getLsbD_not, getLsbD_bitMask]
  split <;> simp [*]

/-- A read-modify-write of a byte that can be stored, by an operation on the byte alone, changes no flag and no register. -/
theorem rmwMem_byte_ready {m : Mode} {s : State} (g : Byte → Byte) (i : Instr) (h : StoreReady m s) :
    rmwMem (fun t u => (g t, u)) m i s =
      .next { afterStore (modeAddr m s) (g (loadValue (modeAddr m s) s)) (afterLoad (modeAddr m s) s) with pc := nextAddr i s } := by
  rw [(rmwMem_eq_next fun _ _ => rfl).mpr ⟨h, rfl⟩, nextAddr, afterLoad_pc]
  rfl

/-- Settles O29: the bytes written are `setBit` and `clearBit` of the byte read. -/
theorem bitSetAndClear : Obligations.BitSetAndClear := by
  intro n dd s
  refine ⟨rfl, ?bclrBytes, rfl, rfl, fun hstore => ?runs⟩
  case bclrBytes => simp [encode, bitOpcode, Nat.add_right_comm]
  case runs =>
    have hready : StoreReady (.dir dd) s := ⟨rfl, hstore⟩
    exact ⟨setBit n (loadValue (zext16 dd) s), clearBit n (loadValue (zext16 dd) s),
      fun k _ => setBit_getLsbD n _ k, fun _ hk => clearBit_getLsbD n _ hk,
      rmwMem_byte_ready (setBit n) _ hready, rmwMem_byte_ready (clearBit n) _ hready⟩

/-! ### Moves -/

/-- The write of a MOV that is not refused, with the flags of the byte moved. -/
theorem moveTo_ready {dst : Addr} {s : State} (v : Byte) (h : storeRefusal dst s = none) :
    moveTo dst v s = .next { afterStore dst v s with ccr := movedFlags v s.ccr } := by
  rw [moveTo, memWrite_ready h, andThen_next, Ccr.moved8_eq_movedFlags, afterStore_ccr]
  rfl

/-- A read and then the write of a MOV, neither refused, and what follows them. -/
theorem memRead_moveTo_ready {src dst : Addr} {s : State} (f : State → Result State) (hsrc : s.region src ≠ .none)
    (hdst : storeRefusal dst s = none) :
    (andThen (memRead src s) fun (v, s1) => andThen (moveTo dst v s1) f) =
      f { afterStore dst (loadValue src s) (afterLoad src s) with ccr := movedFlags (loadValue src s) s.ccr } := by
  have hmove := moveTo_ready (loadValue src s) ((afterLoad_storeRefusal src dst s).trans hdst)
  simp only [memRead_mapped hsrc, andThen_next, hmove, afterLoad_ccr]

/-- The end of an instruction changes pc alone; its value goes by the pc of the state before the accesses. -/
theorem finish_of_pc_eq {i : Instr} {s t : State} (h : t.pc = s.pc) : finish i t = .next { t with pc := nextAddr i s } := by
  rw [finish, nextAddr, h]
  rfl

/-- The sixteen-bit increment of H:X, as arithmetic on the two bytes. -/
theorem postIncrement_eq (s : State) :
    postIncrement s =
      { s with h := BitVec.ofNat 8 ((256 * s.h.toNat + s.x.toNat + 1) / 256), x := BitVec.ofNat 8 (s.x.toNat + 1) } := by
  have hsum : (s.hx + 1).toNat = (256 * s.h.toNat + s.x.toNat + 1) % 2 ^ 16 := by
    rw [add_one_eq_ofNat, BitVec.toNat_ofNat, State.hx, toNat_joinBytes]
  have hhi : hiByte (s.hx + 1) = BitVec.ofNat 8 ((256 * s.h.toNat + s.x.toNat + 1) / 256) := by
    apply BitVec.eq_of_toNat_eq
    rw [toNat_hiByte, hsum, BitVec.toNat_ofNat]
    omega
  have hlo : loByte (s.hx + 1) = BitVec.ofNat 8 (s.x.toNat + 1) := by
    apply BitVec.eq_of_toNat_eq
    rw [toNat_loByte, hsum, BitVec.toNat_ofNat]
    omega
  rw [postIncrement, State.withHX, hhi, hlo]

/-- The end of an X+ form; H, X and pc go by their values before the accesses. -/
theorem finish_postIncrement {i : Instr} {s t : State} (hh : t.h = s.h) (hx : t.x = s.x) (hpc : t.pc = s.pc) :
    finish i (postIncrement t) =
      .next { t with
        h := BitVec.ofNat 8 ((256 * s.h.toNat + s.x.toNat + 1) / 256)
        x := BitVec.ofNat 8 (s.x.toNat + 1)
        pc := nextAddr i s } := by
  rw [postIncrement_eq, hh, hx]
  exact finish_of_pc_eq hpc

/-- Settles O30, a form at a time: the accesses change neither H, X nor pc. -/
theorem movForms : Obligations.MovForms := by
  refine ⟨fun src dst s hsrc hdst => ?dirDir, fun dd s hsrc hdst => ?dirIxp, fun ii dd s hdst => ?immDir,
    fun dd s hsrc hdst => ?ixpDir⟩
  case dirDir => exact (memRead_moveTo_ready _ hsrc hdst).trans (finish_of_pc_eq (by simp))
  case immDir =>
    rw [exec, execMov, moveTo_ready ii hdst, andThen_next, finish_of_pc_eq (s := s) (by simp)]
    rfl
  case dirIxp | ixpDir =>
    exact (memRead_moveTo_ready _ hsrc hdst).trans (finish_postIncrement (by simp) (by simp) (by simp))

/-! ### Transfers -/

/-- Bits joined are a sum of numbers. -/
theorem toNat_append_eq_add {v w : Nat} (x : BitVec v) (y : BitVec w) : (x ++ y).toNat = 2 ^ w * x.toNat + y.toNat := by
  rw [BitVec.toNat_append, ← Nat.shiftLeft_add_eq_or_of_lt y.isLt, Nat.shiftLeft_eq, Nat.mul_comm]

theorem toNat_swapNibbles (b : Byte) : (swapNibbles b).toNat = 16 * (b.toNat % 16) + b.toNat / 16 := by
  have hhigh : b.toNat / 16 < 16 := Nat.div_lt_of_lt_mul b.isLt
  rw [swapNibbles, toNat_append_eq_add, BitVec.extractLsb'_toNat, BitVec.extractLsb'_toNat, Nat.shiftRight_zero,
    Nat.shiftRight_eq_div_pow]
  exact congrArg _ (Nat.mod_eq_of_lt hhigh)

theorem swapNibbles_eq_ofNat (b : Byte) : swapNibbles b = BitVec.ofNat 8 (16 * (b.toNat % 16) + b.toNat / 16) := by
  rw [← toNat_swapNibbles, BitVec.ofNat_toNat, BitVec.setWidth_eq]

/-- Settles O31. -/
theorem transfersCopyOnly : Obligations.TransfersCopyOnly := fun s =>
  ⟨rfl, rfl, rfl, rfl, rfl, rfl, rfl, rfl, rfl, rfl, rfl, by rw [← swapNibbles_eq_ofNat]; rfl⟩

/-- The CCR read as a byte, a bit of weight a power of two for each flag (10_state.md R31). -/
theorem Ccr.toNat_toByte (f : Ccr) :
    f.toByte.toNat =
      128 * f.v.toNat + 96 + 16 * f.h.toNat + 8 * f.i.toNat + 4 * f.n.toNat + 2 * f.z.toNat + f.c.toNat := by
  simp only [Ccr.toByte, toNat_append_eq_add, BitVec.toNat_ofBool, BitVec.toNat_ofNat]
  omega

theorem Ccr.toByte_eq_ofNat (f : Ccr) :
    f.toByte =
      BitVec.ofNat 8 (128 * f.v.toNat + 96 + 16 * f.h.toNat + 8 * f.i.toNat + 4 * f.n.toNat + 2 * f.z.toNat + f.c.toNat) := by
  rw [← Ccr.toNat_toByte, BitVec.ofNat_toNat, BitVec.setWidth_eq]

/-- Settles O32. -/
theorem ccrTransfers : Obligations.CcrTransfers :=
  ⟨fun _ => rfl, fun s => by rw [← Ccr.toByte_eq_ofNat]; rfl⟩

end Sys2Proof.Machine
end

section
/-! PROOFS. Add, subtract, multiply, divide: ADD and ADC (O33), SUB and SBC (O34), both over two bytes (O35), AIS (O36), AIX (O37),
MUL (O38), DIV (O39). The overflow that the model takes from sign bits is that of signed arithmetic; with the carry or the borrow a result
byte is an equation between numbers, and two such equations make one of two bytes. -/
namespace Sys2Proof.Machine

open Sys2Proof

/-! ### Signed overflow by the sign bits -/

theorem overflows8_iff (v : Int) : overflows8 v = true ↔ v < -128 ∨ 127 < v := by
  rw [overflows8, Bool.or_eq_true, decide_eq_true_eq, decide_eq_true_eq]

/-- Where the sign bit is set a byte stands for 256 less as a signed number. -/
theorem byte_toInt_eq (b : Byte) : b.toInt = if 128 ≤ b.toNat then (b.toNat : Int) - 256 else b.toNat := by
  simp only [BitVec.toInt_eq_msb_cond, byte_msb_iff]
  rfl

theorem byte_msb_eq_iff {x y : Byte} : x.msb = y.msb ↔ (128 ≤ x.toNat ↔ 128 ≤ y.toNat) := by
  rw [Bool.eq_iff_iff, byte_msb_iff, byte_msb_iff]

/-- Operands of one sign with a sum of the other: exactly where the signed sum does not fit (10_state.md R33). -/
theorem add8_v (a m : Byte) (c : Bool) : (add8 a m c).v = overflows8 (a.toInt + m.toInt + c.toNat) := by
  have hr : (add8 a m c).r.toNat = (a.toNat + m.toNat + c.toNat) % 256 := BitVec.toNat_ofNat ..
  have hv : (add8 a m c).v = true ↔ a.msb = m.msb ∧ ¬ (add8 a m c).r.msb = a.msb := by simp [add8]
  have hc := c.toNat_le
  rw [Bool.eq_iff_iff, hv, byte_msb_eq_iff, byte_msb_eq_iff, hr, overflows8_iff, byte_toInt_eq, byte_toInt_eq]
  omega

/-- Operands of two signs with a difference not of the minuend's: exactly where the signed difference does not fit. -/
theorem sub8_v (a m : Byte) (b : Bool) : (sub8 a m b).v = overflows8 (a.toInt - m.toInt - b.toNat) := by
  have hr : (sub8 a m b).r.toNat = (((a.toNat : Int) - m.toNat - b.toNat) % 256).toNat := BitVec.toNat_ofInt ..
  have hv : (sub8 a m b).v = true ↔ ¬ a.msb = m.msb ∧ ¬ (sub8 a m b).r.msb = a.msb := by simp [sub8]
  have hb := b.toNat_le
  rw [Bool.eq_iff_iff, hv, byte_msb_eq_iff, byte_msb_eq_iff, hr, overflows8_iff, byte_toInt_eq, byte_toInt_eq]
  omega

/-! ### ADD, ADC, SUB, SBC -/

/-- What the model leaves of a sum is what integer arithmetic gives. -/
theorem takeSum_add8 (m : Byte) (c : Bool) (s : State) : takeSum (add8 s.a m c) s = sumLeaves m c s := by
  rw [takeSum, Ccr.added, Ccr.nz8_eq_signAndZero, add8_v]
  rfl

/-- The flags that the model sets by a difference are those of integer arithmetic. -/
theorem Ccr.subtracted_sub8 (f : Ccr) (a m : Byte) (b : Bool) : f.subtracted (sub8 a m b) = differenceFlags8 a m b f := by
  have hborrow : (sub8 a m b).bw = decide (a.toNat < m.toNat + b.toNat) := decide_eq_decide.mpr (by omega)
  rw [Ccr.subtracted, Ccr.nz8_eq_signAndZero, sub8_v, hborrow]
  rfl

theorem takeDiff_sub8 (m : Byte) (b : Bool) (s : State) :
    takeDiff (sub8 s.a m b) s = { s with a := difference8 s.a m b, ccr := differenceFlags8 s.a m b s.ccr } := by
  rw [takeDiff, Ccr.subtracted_sub8]
  rfl

/-- Settles O33: `takeSum_add8` without and with the carry. -/
theorem addSetsFlags : Obligations.AddSetsFlags := by
  refine ⟨operandRuns_of_withOperand8 (fun o s => ?add) fun _ _ => rfl, operandRuns_of_withOperand8 (fun o s => ?adc) fun _ _ => rfl⟩
  case add => simp only [← takeSum_add8]; rfl
  case adc => simp only [← takeSum_add8]; rfl

/-- Settles O34: `takeDiff_sub8` without and with the borrow. -/
theorem subtractSetsFlags : Obligations.SubtractSetsFlags := by
  refine ⟨operandRuns_of_withOperand8 (fun o s => ?sub) fun _ _ => rfl, operandRuns_of_withOperand8 (fun o s => ?sbc) fun _ _ => rfl⟩
  case sub => simp only [← takeDiff_sub8]; rfl
  case sbc => simp only [← takeDiff_sub8]; rfl

/-! ### Two bytes at a time -/

/-- C and A together hold the whole sum. -/
theorem sumLeaves_carry_a (m : Byte) (c : Bool) (s : State) :
    256 * (sumLeaves m c s).ccr.c.toNat + (sumLeaves m c s).a.toNat = s.a.toNat + m.toNat + c.toNat := by
  have ha : (sumLeaves m c s).a.toNat = (s.a.toNat + m.toNat + c.toNat) % 256 := BitVec.toNat_ofNat ..
  have hc : (sumLeaves m c s).ccr.c.toNat = if 256 ≤ s.a.toNat + m.toNat + c.toNat then 1 else 0 := Bool.cond_decide ..
  have hle := c.toNat_le
  rw [ha, hc]
  split <;> omega

/-- The difference and what is taken away make up the minuend, with 256 more where there is a borrow. -/
theorem difference8_borrow (a m : Byte) (b : Bool) (f : Ccr) :
    (difference8 a m b).toNat + m.toNat + b.toNat = 256 * (differenceFlags8 a m b f).c.toNat + a.toNat := by
  have hd : (difference8 a m b).toNat = (((a.toNat : Int) - m.toNat - b.toNat) % 256).toNat := BitVec.toNat_ofInt ..
  have hc : (differenceFlags8 a m b f).c.toNat = if a.toNat < m.toNat + b.toNat then 1 else 0 := Bool.cond_decide ..
  have hle := b.toNat_le
  rw [hd, hc]
  split <;> omega

/-- ADD of an immediate leaves the whole sum in C and A. -/
theorem exec_add_imm_carry_a (m : Byte) (s : State) :
    ∃ t, exec (.add (.imm m)) s = .next t ∧ 256 * t.ccr.c.toNat + t.a.toNat = s.a.toNat + m.toNat :=
  ⟨_, addSetsFlags.1 (.imm m) s trivial, sumLeaves_carry_a m false s⟩

/-- ADC of an immediate leaves the whole sum in C and A. -/
theorem exec_adc_imm_carry_a (m : Byte) (s : State) :
    ∃ t, exec (.adc (.imm m)) s = .next t ∧ 256 * t.ccr.c.toNat + t.a.toNat = s.a.toNat + m.toNat + s.ccr.c.toNat :=
  ⟨_, addSetsFlags.2 (.imm m) s trivial, sumLeaves_carry_a m s.ccr.c s⟩

/-- SUB of an immediate leaves the difference in A and its borrow in C. -/
theorem exec_sub_imm_borrow (m : Byte) (s : State) :
    ∃ t, exec (.sub (.imm m)) s = .next t ∧ t.a.toNat + m.toNat = 256 * t.ccr.c.toNat + s.a.toNat :=
  ⟨_, subtractSetsFlags.1 (.imm m) s trivial, difference8_borrow s.a m false s.ccr⟩

/-- SBC of an immediate leaves the difference in A and its borrow in C. -/
theorem exec_sbc_imm_borrow (m : Byte) (s : State) :
    ∃ t, exec (.sbc (.imm m)) s = .next t ∧ t.a.toNat + m.toNat + s.ccr.c.toNat = 256 * t.ccr.c.toNat + s.a.toNat :=
  ⟨_, subtractSetsFlags.2 (.imm m) s trivial, difference8_borrow s.a m s.ccr.c s.ccr⟩

/-- Settles O35: of the equations for the low and for the high byte, the carry or the borrow between them cancels. -/
theorem multibyteAddSubtract : Obligations.MultibyteAddSubtract := by
  refine fun lo hi high s => ⟨?sum, ?difference⟩
  case sum =>
    obtain ⟨t, ht, hlow⟩ := exec_add_imm_carry_a lo s
    obtain ⟨u, hu, hhigh⟩ := exec_adc_imm_carry_a hi { t with a := high }
    refine ⟨t, u, ht, hu, ?_⟩
    dsimp only at hhigh
    omega
  case difference =>
    obtain ⟨t, ht, hlow⟩ := exec_sub_imm_borrow lo s
    obtain ⟨u, hu, hhigh⟩ := exec_sbc_imm_borrow hi { t with a := high }
    refine ⟨t, u, ht, hu, ?_⟩
    dsimp only at hhigh
    omega

/-! ### AIS and AIX -/

/-- The sum with a signed byte, as an integer modulo 2^16. -/
theorem add_sext16 (w : Addr) (b : Byte) : w + sext16 b = BitVec.ofInt 16 ((w.toNat : Int) + b.toInt) := by
  rw [BitVec.ofInt_add, BitVec.ofInt_natCast, BitVec.ofNat_toNat, BitVec.setWidth_eq]
  rfl

theorem hiByte_ofInt (v : Int) : hiByte (BitVec.ofInt 16 v) = BitVec.ofInt 8 (v / 256) := by
  apply BitVec.eq_of_toNat_eq
  rw [toNat_hiByte, BitVec.toNat_ofInt, BitVec.toNat_ofInt]
  omega

theorem loByte_ofInt (v : Int) : loByte (BitVec.ofInt 16 v) = BitVec.ofInt 8 v := by
  apply BitVec.eq_of_toNat_eq
  rw [toNat_loByte, BitVec.toNat_ofInt, BitVec.toNat_ofInt]
  omega

/-- Settles O36. -/
theorem aisMovesStackPointer : Obligations.AisMovesStackPointer := by
  intro ii s
  rw [← add_sext16]
  rfl

/-- The sum of H:X with a signed byte, a byte at a time. -/
theorem State.withHX_hx_add_sext16 (s : State) (b : Byte) :
    s.withHX (s.hx + sext16 b) =
      { s with
        h := BitVec.ofInt 8 ((256 * (s.h.toNat : Int) + s.x.toNat + b.toInt) / 256)
        x := BitVec.ofInt 8 ((s.x.toNat : Int) + b.toInt) } := by
  have hx : BitVec.ofInt 8 (256 * (s.h.toNat : Int) + s.x.toNat + b.toInt) = BitVec.ofInt 8 ((s.x.toNat : Int) + b.toInt) := by
    rw [Int.add_assoc, BitVec.ofInt_add, BitVec.ofInt_mul]
    simp
  rw [State.withHX, State.hx, add_sext16, toNat_joinBytes, hiByte_ofInt, loByte_ofInt, Int.natCast_add, Int.natCast_mul, ← hx]
  rfl

/-- Settles O37: the carry into H is in the quotient by 256. -/
theorem aixMovesIndexPair : Obligations.AixMovesIndexPair := by
  refine fun ii s => ⟨rfl, rfl, rfl, ?_⟩
  rw [exec, execAix, State.withHX_hx_add_sext16]
  rfl

/-! ### MUL and DIV -/

/-- A product of two bytes fits in sixteen bits. -/
theorem toNat_ofNat_mul (x a : Byte) : (BitVec.ofNat 16 (x.toNat * a.toNat)).toNat = x.toNat * a.toNat := by
  have hlt : x.toNat * a.toNat < 2 ^ 8 * 2 ^ 8 := Nat.mul_lt_mul'' x.isLt a.isLt
  rw [BitVec.toNat_ofNat]
  exact Nat.mod_eq_of_lt hlt

/-- Settles O38: the bytes of the product. -/
theorem mulLeavesProduct : Obligations.MulLeavesProduct := by
  refine fun s => ⟨rfl, rfl, rfl, ?_⟩
  rw [exec, execMul, hiByte_eq_ofNat, loByte_eq_ofNat, toNat_ofNat_mul]
  rfl

theorem dividend_eq (s : State) : dividend s = 256 * s.h.toNat + s.a.toNat := toNat_joinBytes s.h s.a

/-- The quotient of H:A fits in eight bits exactly where X is above H. -/
theorem dividend_div_lt_iff {s : State} (hx : 0 < s.x.toNat) : dividend s / s.x.toNat < 256 ↔ s.h.toNat < s.x.toNat := by
  have ha := s.a.isLt
  rw [Nat.div_lt_iff_lt_mul hx, dividend_eq]
  omega

/-- DIV sets C exactly where X is not above H, a zero divisor among the cases. -/
theorem divFails_eq (s : State) : divFails s = decide (s.x.toNat ≤ s.h.toNat) := by
  rw [divFails, ← Bool.decide_or, decide_eq_decide]
  obtain hx | hx := Nat.eq_zero_or_pos s.x.toNat
  · simp [hx]
  · have hfits := dividend_div_lt_iff hx
    omega

/-- Z of a quotient that fits: a byte loses none of it. -/
theorem ofNat_beq_zero {q : Nat} (h : q < 256) : (BitVec.ofNat 8 q == 0) = decide (q = 0) := by
  rw [Bool.beq_eq_decide_eq, decide_eq_decide, BitVec.toNat_eq, BitVec.toNat_ofNat, Nat.mod_eq_of_lt h]
  rfl

/-- Settles O39, by the two cases of `divFails_eq`. -/
theorem divQuotientOrCarry : Obligations.DivQuotientOrCarry := by
  refine fun s => ⟨fun h => ?quotient, fun h => ?carry⟩
  case quotient =>
    have hfits : dividend s / s.x.toNat < 256 := (dividend_div_lt_iff (Nat.zero_lt_of_lt h)).mpr h
    rw [exec, execDiv, divFails_eq, decide_eq_false (Nat.not_le.mpr h), if_neg Bool.false_ne_true, divDone, ofNat_beq_zero hfits,
      dividend_eq]
    rfl
  case carry =>
    have hrun : exec .div s = finish .div (divOpen s) := by
      rw [exec, execDiv, divFails_eq, decide_eq_true h, if_pos rfl]
    exact ⟨_, _, _, hrun⟩

end Sys2Proof.Machine
end

section
/-! PROOFS. Other arithmetic: INC and DEC (O40), CLR (O41), NEG (O42), CMP and CPX (O43), CPHX (O44), TST (O45), DAA by its table (O46) and
after a sum of BCD numbers (O47). A read-modify-write instruction is run once for its six operands, so that a use of it is about
the operation alone. The rows of the table of DAA exclude one another, so that the one that fits is the one found. -/
namespace Sys2Proof.Machine

open Sys2Proof

/-! ### Read-modify-write instructions -/

/-- A store reads and writes neither the flags nor the draw counter. -/
theorem afterStore_flags (a : Addr) (v : Byte) (f : Ccr) (n : Nat) (s : State) :
    afterStore a v { s with ccr := f, draws := n } = { afterStore a v s with ccr := f, draws := n } := by
  have hregion : State.region { s with ccr := f, draws := n } a = s.region a := rfl
  unfold afterStore
  rw [hregion]
  cases s.region a <;> rfl

/-- A read-modify-write instruction whose operation answers a result and sets flags and draw counter alone runs on its six operands. -/
theorem unaryRuns_of_rmw {mk : Mode → Instr} {onA onX : Instr} {op : UnaryOp} {result : Byte → State → Byte}
    {flags : Byte → State → Ccr} {draws : State → Nat} (hop : ∀ b u, op b u = (result b u, { u with ccr := flags b u, draws := draws u }))
    (hmem : ∀ m s, exec (mk m) s = rmwMem op m (mk m) s) (hA : ∀ s, exec onA s = rmwA op onA s)
    (hX : ∀ s, exec onX s = rmwX op onX s) (hsizeA : onA.size = 1) (hsizeX : onX.size = 1) :
    UnaryRuns mk onA onX result flags draws := by
  refine ⟨fun m s hready => ?mem, fun s => ?a, fun s => ?x⟩
  case mem =>
    have hparams : ∀ b u, (op b u).2.params = u.params := fun b u => by rw [hop]
    rw [hmem, (rmwMem_eq_next hparams).mpr ⟨hready, rfl⟩, hop, afterStore_flags, nextAddr, afterLoad_pc]
    rfl
  case a =>
    rw [hA, rmwA, hop, finish, nextAddr, hsizeA]
    rfl
  case x =>
    rw [hX, rmwX, hop, finish, nextAddr, hsizeX]
    rfl

/-- C with `cautious_flags`, after flags that leave C as it was. -/
theorem cautiousC_of_carry_eq {f : Ccr} {s : State} (h : f.c = s.ccr.c) :
    cautiousC (s.withCcr f) = { s with ccr := { f with c := keptCarry s }, draws := flagDraws s } := by
  rw [← cautiousC_eq f s, ← h]

/-! ### INC and DEC -/

theorem byte_add_one_eq_ofNat (b : Byte) : b + 1 = BitVec.ofNat 8 (b.toNat + 1) := by
  apply BitVec.eq_of_toNat_eq
  simp

theorem byte_sub_one_eq_ofInt (b : Byte) : b - 1 = BitVec.ofInt 8 ((b.toNat : Int) - 1) := by
  rw [BitVec.sub_eq_add_neg, Int.sub_eq_add_neg, BitVec.ofInt_add, BitVec.ofInt_natCast, BitVec.ofNat_toNat, BitVec.setWidth_eq]
  rfl

/-- One more does not fit exactly for the greatest signed byte. -/
theorem beq_7F_eq_overflows8 (b : Byte) : (b == 0x7F#8) = overflows8 (b.toInt + 1) := by
  have hb := b.isLt
  rw [Bool.eq_iff_iff, beq_iff_eq, BitVec.toNat_eq, overflows8_iff, byte_toInt_eq, BitVec.toNat_ofNat]
  omega

/-- One less does not fit exactly for the least signed byte. -/
theorem beq_80_eq_overflows8 (b : Byte) : (b == 0x80#8) = overflows8 (b.toInt - 1) := by
  have hb := b.isLt
  rw [Bool.eq_iff_iff, beq_iff_eq, BitVec.toNat_eq, overflows8_iff, byte_toInt_eq, BitVec.toNat_ofNat]
  omega

theorem incOp_eq (b : Byte) (s : State) :
    incOp b s =
      (BitVec.ofNat 8 (b.toNat + 1),
        { s with
          ccr := { signAndZero (BitVec.ofNat 8 (b.toNat + 1)) s.ccr with v := overflows8 (b.toInt + 1), c := keptCarry s }
          draws := flagDraws s }) := by
  rw [incOp, byte_add_one_eq_ofNat, beq_7F_eq_overflows8, Ccr.nz8_eq_signAndZero]
  exact congrArg (Prod.mk _) (cautiousC_of_carry_eq rfl)

theorem decOp_eq (b : Byte) (s : State) :
    decOp b s =
      (BitVec.ofInt 8 ((b.toNat : Int) - 1),
        { s with
          ccr := { signAndZero (BitVec.ofInt 8 ((b.toNat : Int) - 1)) s.ccr with v := overflows8 (b.toInt - 1), c := keptCarry s }
          draws := flagDraws s }) := by
  rw [decOp, byte_sub_one_eq_ofInt, beq_80_eq_overflows8, Ccr.nz8_eq_signAndZero]
  exact congrArg (Prod.mk _) (cautiousC_of_carry_eq rfl)

/-- Settles O40. -/
theorem incrementDecrement : Obligations.IncrementDecrement :=
  ⟨unaryRuns_of_rmw incOp_eq (fun _ _ => rfl) (fun _ => rfl) (fun _ => rfl) rfl rfl,
    unaryRuns_of_rmw decOp_eq (fun _ _ => rfl) (fun _ => rfl) (fun _ => rfl) rfl rfl⟩

/-! ### CLR -/

theorem clearedFlags_eq (s : State) :
    clearedFlags s =
      { s with ccr := { s.ccr with v := false, n := false, z := true, c := keptCarry s }, draws := flagDraws s } :=
  cautiousC_of_carry_eq rfl

/-- Settles O41: every form sets the flags of `clearedFlags_eq`. -/
theorem clearMakesZero : Obligations.ClearMakesZero := by
  refine ⟨unaryRuns_of_rmw (op := clrOp) (fun b s => ?op) (fun _ _ => rfl) (fun _ => rfl) (fun _ => rfl) rfl rfl, fun s => ?clrh⟩
  case op => rw [clrOp, clearedFlags_eq]
  case clrh =>
    rw [exec, execClrh, clearedFlags_eq]
    rfl

/-! ### NEG -/

/-- The difference from zero is the negative, modulo 256. -/
theorem difference8_zero_left (b : Byte) : difference8 0x00#8 b false = BitVec.ofInt 8 (-b.toInt) := by
  apply BitVec.eq_of_toNat_eq
  rw [difference8, BitVec.toNat_ofInt, BitVec.toNat_ofInt, byte_toInt_eq, Bool.toNat_false, BitVec.toNat_ofNat]
  split <;> omega

/-- A negation overflows as a signed number, and borrows for every operand but zero. -/
theorem differenceFlags8_zero_left (b : Byte) (f : Ccr) :
    differenceFlags8 0x00#8 b false f =
      { signAndZero (BitVec.ofInt 8 (-b.toInt)) f with v := overflows8 (-b.toInt), c := decide (b ≠ 0) } := by
  have hv : (0x00#8).toInt - b.toInt - (false.toNat : Int) = -b.toInt := by simp
  have hc : decide ((0x00#8).toNat < b.toNat + false.toNat) = decide (b ≠ 0) :=
    decide_eq_decide.mpr (by rw [Ne, BitVec.toNat_eq]; exact Nat.pos_iff_ne_zero)
  rw [differenceFlags8, difference8_zero_left, hv, hc]

/-- Settles O42. -/
theorem negateTwosComplement : Obligations.NegateTwosComplement := by
  refine unaryRuns_of_rmw (op := negOp) (fun b s => ?_) (fun _ _ => rfl) (fun _ => rfl) (fun _ => rfl) rfl rfl
  rw [negOp, Ccr.subtracted_sub8, differenceFlags8_zero_left, ← difference8_zero_left]
  rfl

/-! ### CMP, CPX and CPHX -/

/-- Settles O43. -/
theorem compareSetsFlagsOnly : Obligations.CompareSetsFlagsOnly := by
  refine ⟨operandRuns_of_withOperand8 (fun o s => ?cmp) fun _ _ => rfl, operandRuns_of_withOperand8 (fun o s => ?cpx) fun _ _ => rfl⟩
  case cmp => simp only [← Ccr.subtracted_sub8]; rfl
  case cpx => simp only [← Ccr.subtracted_sub8]; rfl

theorem overflows16_iff (v : Int) : overflows16 v = true ↔ v < -32768 ∨ 32767 < v := by
  rw [overflows16, Bool.or_eq_true, decide_eq_true_eq, decide_eq_true_eq]

/-- The sign bit of a word is set in its upper half. -/
theorem word_msb_iff (w : Addr) : w.msb = true ↔ 32768 ≤ w.toNat := by
  rw [BitVec.msb_eq_decide, decide_eq_true_eq]

/-- Where the sign bit is set a word stands for 65536 less as a signed number. -/
theorem word_toInt_eq (w : Addr) : w.toInt = if 32768 ≤ w.toNat then (w.toNat : Int) - 65536 else w.toNat := by
  simp only [BitVec.toInt_eq_msb_cond, word_msb_iff]
  rfl

theorem word_msb_eq_iff {x y : Addr} : x.msb = y.msb ↔ (32768 ≤ x.toNat ↔ 32768 ≤ y.toNat) := by
  rw [Bool.eq_iff_iff, word_msb_iff, word_msb_iff]

theorem toNat_sub16_r (a m : Addr) : (sub16 a m).r.toNat = (((a.toNat : Int) - m.toNat) % 65536).toNat := BitVec.toNat_ofInt ..

/-- Operands of two signs with a difference not of the minuend's: exactly where the signed difference does not fit. -/
theorem sub16_v (a m : Addr) : (sub16 a m).v = overflows16 (a.toInt - m.toInt) := by
  have hr := toNat_sub16_r a m
  have hv : (sub16 a m).v = true ↔ ¬ a.msb = m.msb ∧ ¬ (sub16 a m).r.msb = a.msb := by simp [sub16]
  rw [Bool.eq_iff_iff, hv, word_msb_eq_iff, word_msb_eq_iff, hr, overflows16_iff, word_toInt_eq, word_toInt_eq]
  omega

/-- The 16-bit difference is zero exactly where the operands are equal. -/
theorem sub16_r_beq_zero (a m : Addr) : ((sub16 a m).r == 0) = decide (a = m) := by
  have ha := a.isLt
  have hm := m.isLt
  have hzero : (0 : Addr).toNat = 0 := rfl
  rw [Bool.beq_eq_decide_eq, decide_eq_decide, BitVec.toNat_eq, BitVec.toNat_eq, toNat_sub16_r]
  omega

/-- The flags that the model sets by a 16-bit difference are those of integer arithmetic. -/
theorem Ccr.subtracted16_sub16 (f : Ccr) (a m : Addr) : f.subtracted16 (sub16 a m) = differenceFlags16 a m f := by
  have hborrow : (sub16 a m).bw = decide (a.toNat < m.toNat) := decide_eq_decide.mpr (by omega)
  rw [Ccr.subtracted16, Ccr.nz16, sub16_v, sub16_r_beq_zero, hborrow, BitVec.msb_eq_getLsbD_last]
  rfl

/-- Settles O44. -/
theorem cphxSetsFlagsOnly : Obligations.CphxSetsFlagsOnly := by
  refine operand16Runs_of_withOperand16 (fun o s => ?_) fun _ _ => rfl
  simp only [← Ccr.subtracted16_sub16]
  rfl

/-! ### TST -/

theorem testFlags_eq (b : Byte) (s : State) :
    testFlags b s = { s with ccr := { movedFlags b s.ccr with c := keptCarry s }, draws := flagDraws s } := by
  rw [testFlags, Ccr.moved8_eq_movedFlags]
  exact cautiousC_of_carry_eq rfl

/-- Settles O45: the memory form only reads its operand. -/
theorem testSetsFlagsOnly : Obligations.TestSetsFlagsOnly := by
  refine ⟨fun m s hready => ?mem, fun s => ?a, fun s => ?x⟩
  case mem =>
    rw [exec, execTst, withOperand8_eq_next.mpr ⟨hready, rfl⟩, testFlags_eq, nextAddr, operand8After_pc, operand8After, operand8Value,
      afterLoad_ccr]
    rfl
  case a =>
    rw [exec, execTsta, testFlags_eq]
    rfl
  case x =>
    rw [exec, execTstx, testFlags_eq]
    rfl

/-! ### DAA -/

/-- Two rows that no input fits both: they differ in C or the half carry, or a range of one ends below the other's. -/
def DaaRow.apart (r q : DaaRow) : Bool :=
  r.c != q.c || r.h != q.h || decide (r.hiLast < q.hiFirst) || decide (q.hiLast < r.hiFirst) || decide (r.loLast < q.loFirst) ||
    decide (q.loLast < r.loFirst)

theorem DaaRow.fits_iff (r : DaaRow) (a : Byte) (h c : Bool) :
    r.fits a h c = true ↔
      r.c = c ∧ (r.hiFirst ≤ a.toNat / 16 ∧ a.toNat / 16 ≤ r.hiLast) ∧ r.h = h ∧ r.loFirst ≤ a.toNat % 16 ∧ a.toNat % 16 ≤ r.loLast := by
  simp [DaaRow.fits, and_assoc]

theorem DaaRow.not_fits_of_apart {r q : DaaRow} {a : Byte} {h c : Bool} (hap : r.apart q = true) (hq : q.fits a h c = true) :
    r.fits a h c ≠ true := by
  intro hr
  obtain ⟨hrc, hrhi, hrh, hrlo⟩ := (r.fits_iff a h c).mp hr
  obtain ⟨hqc, hqhi, hqh, hqlo⟩ := (q.fits_iff a h c).mp hq
  simp only [DaaRow.apart, hrc, hqc, hrh, hqh, bne_self_eq_false, Bool.false_or, Bool.or_eq_true, decide_eq_true_eq] at hap
  omega

/-- In a table whose rows are apart, the row found is the one that fits. -/
theorem find?_fits_of_apart {l : List DaaRow} (hl : l.Pairwise fun r q => r.apart q = true) {q : DaaRow} (hmem : q ∈ l) {a : Byte}
    {h c : Bool} (hq : q.fits a h c = true) : (l.find? fun r => r.fits a h c) = some q := by
  induction hl with
  | nil => exact absurd hmem List.not_mem_nil
  | @cons r l hr _ ih =>
    obtain rfl | htail := List.mem_cons.mp hmem
    · exact List.find?_cons_of_pos hq
    · have hskip : r.fits a h c ≠ true := DaaRow.not_fits_of_apart (hr q htail) hq
      exact (List.find?_cons_of_neg (p := fun r : DaaRow => r.fits a h c) hskip).trans (ih htail)

theorem daaTable_apart : daaTable.Pairwise fun r q => r.apart q = true := by decide

theorem daaResult_of_fits {r : DaaRow} (hmem : r ∈ daaTable) {a : Byte} {h c : Bool} (hfits : r.fits a h c = true) (draw : Nat) :
    daaResult a h c draw = (a + r.cf, r.cAfter) := by
  rw [daaResult, daaRow, find?_fits_of_apart daaTable_apart hmem hfits]

/-- DAA leaves the result of the table, or the free one outside it. -/
theorem daaLeaves_daaResult (s : State) :
    DaaLeaves s (daaResult s.a s.ccr.h s.ccr.c s.draws).1 (daaResult s.a s.ccr.h s.ccr.c s.draws).2 := by
  refine ⟨Config.daaV s.draws, ?_⟩
  rw [exec, execDaa, Ccr.nz8_eq_signAndZero]
  rfl

/-- The input lies in the ranges of the row. -/
abbrev InRow (s : State) (r : DaaRow) : Prop := InDaaRow s r.c r.hiFirst r.hiLast r.h r.loFirst r.loLast

/-- An input in the ranges of a row of the table, given by its place, takes the row's correction and its C. -/
theorem daaLeaves_of_inRow (s : State) (k : Fin 9) (hin : InRow s (daaTable.get k)) :
    DaaLeaves s (s.a + (daaTable.get k).cf) (daaTable.get k).cAfter := by
  obtain ⟨hc, hhi, hh, hlo⟩ := hin
  have hfits : (daaTable.get k).fits s.a s.ccr.h s.ccr.c = true := (DaaRow.fits_iff ..).mpr ⟨hc.symm, hhi, hh.symm, hlo⟩
  have hleaves := daaLeaves_daaResult s
  rwa [daaResult_of_fits (List.get_mem ..) hfits] at hleaves

/-- Settles O46: the rows in their order, the first with a correction of zero; outside them the free values are those of `daaResult`. -/
theorem daaFollowsTable : Obligations.DaaFollowsTable := by
  intro s
  have hrow := daaLeaves_of_inRow s
  have houtside : ∃ r c, DaaLeaves s r c := ⟨_, _, daaLeaves_daaResult s⟩
  refine ⟨fun h => ?_, hrow 1, hrow 2, hrow 3, hrow 4, hrow 5, hrow 6, hrow 7, hrow 8, fun _ _ => houtside, fun _ _ => houtside,
    fun _ _ _ => houtside⟩
  rw [← BitVec.add_zero (x := s.a)]
  exact hrow 0 h

/-! ### DAA after a sum of BCD numbers -/

/-- Where DAA leaves two decimal digits in A, they and C make up the number. -/
theorem DaaLeaves.decimal {t : State} {r : Byte} {c : Bool} (h : DaaLeaves t r c) (tens ones : Nat)
    (hr : r.toNat = 16 * tens + ones ∧ tens ≤ 9 ∧ ones ≤ 9) {n : Nat} (hn : n = 100 * c.toNat + 10 * tens + ones) :
    ∃ u, exec .daa t = .next u ∧ IsBcd u.a ∧ 100 * u.ccr.c.toNat + bcdValue u.a = n := by
  obtain ⟨v, hrun⟩ := h
  refine ⟨_, hrun, ?_, ?_⟩
  · dsimp only [IsBcd]
    omega
  · dsimp only [bcdValue]
    omega

/-- DAA after a binary sum of BCD numbers whose tens add up to `hi` and whose ones, with the carry in, add up to `lo`: of each digit sum the
correction leaves the decimal digit. The rows go by whether the ones, and then the tens with their carry, are a decimal digit, are above one
but within the nibble, or have carried out of it. -/
theorem exec_daa_of_digit_sums {t : State} {hi lo : Nat} (hhi : hi ≤ 18) (hlo : lo ≤ 19) (ha : t.a.toNat = (16 * hi + lo) % 256)
    (hh : t.ccr.h = decide (16 ≤ lo)) (hc : t.ccr.c = decide (256 ≤ 16 * hi + lo)) :
    ∃ u, exec .daa t = .next u ∧ IsBcd u.a ∧ 100 * u.ccr.c.toNat + bcdValue u.a = 10 * hi + lo := by
  have noCarry (h : 16 * hi + lo < 256) : t.ccr.c = false := hc.trans (decide_eq_false (by omega))
  have carry (h : 256 ≤ 16 * hi + lo) : t.ccr.c = true := hc.trans (decide_eq_true h)
  have hfalse : false.toNat = 0 := rfl
  have htrue : true.toNat = 1 := rfl
  obtain ⟨row1, row2, row3, row4, row5, row6, row7, row8, row9, -⟩ := daaFollowsTable t
  obtain hones | hones | hones : lo ≤ 9 ∨ (10 ≤ lo ∧ lo < 16) ∨ 16 ≤ lo := by omega
  · have hhalf : t.ccr.h = false := hh.trans (decide_eq_false (by omega))
    obtain htens | htens | htens : hi ≤ 9 ∨ (10 ≤ hi ∧ hi ≤ 15) ∨ 16 ≤ hi := by omega
    · exact (row1 ⟨noCarry (by omega), by omega, hhalf, by omega⟩).decimal hi lo (by bv_omega) (by omega)
    · exact (row4 ⟨noCarry (by omega), by omega, hhalf, by omega⟩).decimal (hi - 10) lo (by bv_omega) (by omega)
    · exact (row7 ⟨carry (by omega), by omega, hhalf, by omega⟩).decimal (hi - 10) lo (by bv_omega) (by omega)
  · have hhalf : t.ccr.h = false := hh.trans (decide_eq_false (by omega))
    obtain htens | htens | htens : hi ≤ 8 ∨ (9 ≤ hi ∧ hi ≤ 15) ∨ 16 ≤ hi := by omega
    · exact (row2 ⟨noCarry (by omega), by omega, hhalf, by omega⟩).decimal (hi + 1) (lo - 10) (by bv_omega) (by omega)
    · exact (row5 ⟨noCarry (by omega), by omega, hhalf, by omega⟩).decimal (hi - 9) (lo - 10) (by bv_omega) (by omega)
    · exact (row8 ⟨carry (by omega), by omega, hhalf, by omega⟩).decimal (hi - 9) (lo - 10) (by bv_omega) (by omega)
  · have hhalf : t.ccr.h = true := hh.trans (decide_eq_true hones)
    obtain htens | htens | htens : hi ≤ 8 ∨ (9 ≤ hi ∧ hi ≤ 14) ∨ 15 ≤ hi := by omega
    · exact (row3 ⟨noCarry (by omega), by omega, hhalf, by omega⟩).decimal (hi + 1) (lo - 10) (by bv_omega) (by omega)
    · exact (row6 ⟨noCarry (by omega), by omega, hhalf, by omega⟩).decimal (hi - 9) (lo - 10) (by bv_omega) (by omega)
    · exact (row9 ⟨carry (by omega), by omega, hhalf, by omega⟩).decimal (hi - 9) (lo - 10) (by bv_omega) (by omega)

/-- DAA after a binary sum of two BCD numbers and a carry gives their decimal sum, wherever the instruction stands. -/
theorem exec_daa_after_sumLeaves {m : Byte} {s : State} (c : Bool) (pc : Addr) (hs : IsBcd s.a) (hm : IsBcd m) :
    ∃ u, exec .daa { sumLeaves m c s with pc := pc } = .next u ∧ IsBcd u.a ∧
      100 * u.ccr.c.toNat + bcdValue u.a = bcdValue s.a + bcdValue m + c.toNat := by
  have hle := c.toNat_le
  have hsum : s.a.toNat + m.toNat + c.toNat =
      16 * (s.a.toNat / 16 + m.toNat / 16) + (s.a.toNat % 16 + m.toNat % 16 + c.toNat) := by omega
  have hvalue : bcdValue s.a + bcdValue m + c.toNat =
      10 * (s.a.toNat / 16 + m.toNat / 16) + (s.a.toNat % 16 + m.toNat % 16 + c.toNat) := by
    dsimp only [bcdValue]
    omega
  rw [hvalue]
  refine exec_daa_of_digit_sums (by omega) (by omega) ?sum rfl ?carry
  case sum =>
    rw [← hsum]
    exact BitVec.toNat_ofNat ..
  case carry =>
    rw [← hsum]
    rfl

/-- Settles O47: ADD without and ADC with the carry. -/
theorem daaCorrectsBcdSum : Obligations.DaaCorrectsBcdSum := by
  refine fun m s hs hm => ⟨?add, ?adc⟩
  case add =>
    obtain ⟨u, hu⟩ := exec_daa_after_sumLeaves false (s.pc + 2) hs hm
    exact ⟨_, u, addSetsFlags.1 (.imm m) s trivial, hu⟩
  case adc =>
    obtain ⟨u, hu⟩ := exec_daa_after_sumLeaves s.ccr.c (s.pc + 2) hs hm
    exact ⟨_, u, addSetsFlags.2 (.imm m) s trivial, hu⟩

end Sys2Proof.Machine
end

section
/-! PROOFS. Logical: AND, ORA, EOR and BIT (O48), COM (O49). The three that take their result share one run, for any bytewise operation. -/
namespace Sys2Proof.Machine

open Sys2Proof

/-! ### AND, ORA, EOR and BIT -/

/-- What the model leaves of a logical result, in the spelling of the statements. -/
theorem takeLogical_eq (r : Byte) (s : State) : takeLogical r s = { s with a := r, ccr := movedFlags r s.ccr } := by
  rw [takeLogical, Ccr.moved8_eq_movedFlags]
  rfl

/-- An instruction that takes a logical result of A and its operand runs in every mode. -/
theorem operandRuns_of_takeLogical {mk : Operand8 → Instr} {f : Byte → Byte → Byte}
    (hexec : ∀ o s, exec (mk o) s = withOperand8 o (fun m u => takeLogical (f u.a m) u) (mk o) s) :
    OperandRuns mk fun m s => { s with a := f s.a m, ccr := movedFlags (f s.a m) s.ccr } := by
  simp only [takeLogical_eq] at hexec
  exact operandRuns_of_withOperand8 hexec fun _ _ => rfl

/-- Settles O48: three logical results that A takes, and one that sets the flags alone. -/
theorem logicalResults : Obligations.LogicalResults := by
  refine ⟨operandRuns_of_takeLogical fun _ _ => rfl, operandRuns_of_takeLogical fun _ _ => rfl,
    operandRuns_of_takeLogical fun _ _ => rfl, operandRuns_of_withOperand8 (fun o s => ?bit) fun _ _ => rfl⟩
  case bit => simp only [← Ccr.moved8_eq_movedFlags]; rfl

/-! ### COM -/

theorem byte_not_eq_ofNat (b : Byte) : ~~~b = BitVec.ofNat 8 (255 - b.toNat) := by
  apply BitVec.eq_of_toNat_eq
  rw [BitVec.toNat_not, BitVec.toNat_ofNat]
  omega

theorem comOp_eq (b : Byte) (s : State) :
    comOp b s =
      (BitVec.ofNat 8 (255 - b.toNat), { s with ccr := { movedFlags (BitVec.ofNat 8 (255 - b.toNat)) s.ccr with c := true } }) := by
  rw [comOp, byte_not_eq_ofNat, Ccr.moved8_eq_movedFlags]
  rfl

/-- Settles O49: every form runs `comOp`, which is `comOp_eq`. -/
theorem complementInverts : Obligations.ComplementInverts :=
  unaryRuns_of_rmw comOp_eq (fun _ _ => rfl) (fun _ => rfl) (fun _ => rfl) rfl rfl

end Sys2Proof.Machine
end

section
/-! PROOFS. Shifts and rotates: LSL and ASL (O50), LSR and ASR (O51), ROL and ROR (O52), and their chains over three bytes (O53). An
operation is its result and the bit that leaves into C; together these are an equation between numbers, and the bit that one byte of a
chain hands to the next cancels between two such equations. -/
namespace Sys2Proof.Machine

open Sys2Proof

/-! ### The result and the bit that leaves -/

/-- What every shift and rotate leaves, in the spelling of the statements: V is bit 7 of the result against the bit that leaves. -/
theorem shiftTo_eq (r : Byte) (out : Bool) (s : State) :
    shiftTo r out s =
      (r, { s with
        ccr := { signAndZero r s.ccr with v := shiftOverflow (r.getLsbD 7 != out) s, c := out }
        draws := flagDraws s }) := by
  rw [shiftTo, Ccr.shifted, Ccr.nz8_eq_signAndZero, BitVec.msb_eq_getLsbD_last]
  exact congrArg (Prod.mk r) (cautiousV_eq { signAndZero r s.ccr with c := out } _ s)

/-- Bit 7 is what leaves a byte when it is doubled. -/
theorem byte_getLsbD_seven (b : Byte) : b.getLsbD 7 = decide (256 ≤ 2 * b.toNat) := by
  have hmsb : b.getLsbD 7 = b.msb := (BitVec.msb_eq_getLsbD_last b).symm
  rw [Bool.eq_iff_iff, decide_eq_true_eq, hmsb, byte_msb_iff]
  omega

/-- Bit 0 is what leaves a byte when it is halved. -/
theorem byte_getLsbD_zero (b : Byte) : b.getLsbD 0 = decide (b.toNat % 2 = 1) := Nat.testBit_zero b.toNat

/-! ### LSL and ASL -/

theorem byte_shiftLeft_one_eq_ofNat (b : Byte) : b <<< 1 = BitVec.ofNat 8 (2 * b.toNat) := by
  apply BitVec.eq_of_toNat_eq
  rw [BitVec.toNat_shiftLeft, Nat.shiftLeft_eq, BitVec.toNat_ofNat, Nat.mul_comm]

theorem lslOp_eq (b : Byte) (s : State) :
    lslOp b s =
      (BitVec.ofNat 8 (2 * b.toNat),
        { s with
          ccr :=
            { signAndZero (BitVec.ofNat 8 (2 * b.toNat)) s.ccr with
              v := shiftOverflow (b.getLsbD 6 != b.getLsbD 7) s, c := decide (256 ≤ 2 * b.toNat) }
          draws := flagDraws s }) := by
  have hsign : (b <<< 1).getLsbD 7 = b.getLsbD 6 := by simp
  rw [lslOp, shiftTo_eq, hsign, byte_shiftLeft_one_eq_ofNat, ← byte_getLsbD_seven]

/-- Settles O50: every form of either spelling runs `lslOp`, which is `lslOp_eq`. -/
theorem shiftLeftDoubles : Obligations.ShiftLeftDoubles :=
  ⟨unaryRuns_of_rmw lslOp_eq (fun _ _ => rfl) (fun _ => rfl) (fun _ => rfl) rfl rfl,
    unaryRuns_of_rmw lslOp_eq (fun _ _ => rfl) (fun _ => rfl) (fun _ => rfl) rfl rfl⟩

/-! ### LSR and ASR -/

theorem toNat_byte_ushiftRight_one (b : Byte) : (b >>> 1).toNat = b.toNat / 2 := by
  rw [BitVec.toNat_ushiftRight, Nat.shiftRight_eq_div_pow]

theorem toInt_byte_sshiftRight_one (b : Byte) : (b.sshiftRight 1).toInt = b.toInt / 2 := by
  rw [BitVec.toInt_sshiftRight, Int.shiftRight_eq_div_pow]
  rfl

theorem lsrOp_eq (b : Byte) (s : State) :
    lsrOp b s =
      (BitVec.ofNat 8 (b.toNat / 2),
        { s with
          ccr :=
            { s.ccr with
              v := shiftOverflow (decide (b.toNat % 2 = 1)) s
              n := false
              z := decide (b.toNat / 2 = 0)
              c := decide (b.toNat % 2 = 1) }
          draws := flagDraws s }) := by
  have hr : BitVec.ofNat 8 (b.toNat / 2) = b >>> 1 := by
    rw [← toNat_byte_ushiftRight_one, BitVec.ofNat_toNat, BitVec.setWidth_eq]
  have hsign : (b >>> 1).getLsbD 7 = false := by simp
  have hzero : decide (b >>> 1 = 0) = decide (b.toNat / 2 = 0) :=
    decide_eq_decide.mpr (by rw [BitVec.toNat_eq, toNat_byte_ushiftRight_one]; rfl)
  rw [lsrOp, shiftTo_eq, signAndZero, hsign, hzero, hr, ← byte_getLsbD_zero, Bool.false_bne]

theorem asrOp_eq (b : Byte) (s : State) :
    asrOp b s =
      (BitVec.ofInt 8 (b.toInt / 2),
        { s with
          ccr :=
            { s.ccr with
              v := shiftOverflow (decide (b.toInt < 0) != decide (b.toNat % 2 = 1)) s
              n := decide (b.toInt < 0)
              z := decide (b.toInt / 2 = 0)
              c := decide (b.toNat % 2 = 1) }
          draws := flagDraws s }) := by
  have hr : BitVec.ofInt 8 (b.toInt / 2) = b.sshiftRight 1 := by rw [← toInt_byte_sshiftRight_one, BitVec.ofInt_toInt]
  have hsign : (b.sshiftRight 1).getLsbD 7 = decide (b.toInt < 0) := by
    rw [← BitVec.msb_eq_toInt, ← BitVec.msb_sshiftRight (n := 1), BitVec.msb_eq_getLsbD_last]
  have hzero : decide (b.sshiftRight 1 = 0) = decide (b.toInt / 2 = 0) :=
    decide_eq_decide.mpr (by rw [← BitVec.toInt_inj, toInt_byte_sshiftRight_one]; rfl)
  rw [asrOp, shiftTo_eq, signAndZero, hsign, hzero, hr, ← byte_getLsbD_zero]

/-- Settles O51. -/
theorem shiftRightHalves : Obligations.ShiftRightHalves :=
  ⟨unaryRuns_of_rmw lsrOp_eq (fun _ _ => rfl) (fun _ => rfl) (fun _ => rfl) rfl rfl,
    unaryRuns_of_rmw asrOp_eq (fun _ _ => rfl) (fun _ => rfl) (fun _ => rfl) rfl rfl⟩

/-! ### ROL and ROR -/

/-- Seven bits and C below them, as a number. -/
theorem rolResult_eq_ofNat (b : Byte) (c : Bool) :
    b.extractLsb' 0 7 ++ BitVec.ofBool c = BitVec.ofNat 8 (2 * b.toNat + c.toNat) := by
  have hc := c.toNat_le
  apply BitVec.eq_of_toNat_eq
  rw [toNat_append_eq_add, BitVec.extractLsb'_toNat, BitVec.toNat_ofBool, BitVec.toNat_ofNat, Nat.shiftRight_zero]
  omega

/-- C and seven bits below it, as a number. -/
theorem rorResult_eq_ofNat (b : Byte) (c : Bool) :
    BitVec.ofBool c ++ b.extractLsb' 1 7 = BitVec.ofNat 8 (128 * c.toNat + b.toNat / 2) := by
  have hb := b.isLt
  have hc := c.toNat_le
  apply BitVec.eq_of_toNat_eq
  rw [toNat_append_eq_add, BitVec.extractLsb'_toNat, BitVec.toNat_ofBool, BitVec.toNat_ofNat, Nat.shiftRight_eq_div_pow]
  omega

theorem rolOp_eq (b : Byte) (s : State) :
    rolOp b s =
      (BitVec.ofNat 8 (2 * b.toNat + s.ccr.c.toNat),
        { s with
          ccr :=
            { signAndZero (BitVec.ofNat 8 (2 * b.toNat + s.ccr.c.toNat)) s.ccr with
              v := shiftOverflow (b.getLsbD 6 != b.getLsbD 7) s, c := b.getLsbD 7 }
          draws := flagDraws s }) := by
  have hsign : (b.extractLsb' 0 7 ++ BitVec.ofBool s.ccr.c).getLsbD 7 = b.getLsbD 6 :=
    BitVec.getLsbD_append.trans (by simp)
  rw [rolOp, shiftTo_eq, hsign, rolResult_eq_ofNat]

theorem rorOp_eq (b : Byte) (s : State) :
    rorOp b s =
      (BitVec.ofNat 8 (128 * s.ccr.c.toNat + b.toNat / 2),
        { s with
          ccr :=
            { signAndZero (BitVec.ofNat 8 (128 * s.ccr.c.toNat + b.toNat / 2)) s.ccr with
              v := shiftOverflow (s.ccr.c != b.getLsbD 0) s, c := b.getLsbD 0 }
          draws := flagDraws s }) := by
  have hsign : (BitVec.ofBool s.ccr.c ++ b.extractLsb' 1 7).getLsbD 7 = s.ccr.c :=
    BitVec.getLsbD_append.trans (by simp)
  rw [rorOp, shiftTo_eq, hsign, rorResult_eq_ofNat]

/-- Settles O52. -/
theorem rotatesThroughCarry : Obligations.RotatesThroughCarry :=
  ⟨unaryRuns_of_rmw rolOp_eq (fun _ _ => rfl) (fun _ => rfl) (fun _ => rfl) rfl rfl,
    unaryRuns_of_rmw rorOp_eq (fun _ _ => rfl) (fun _ => rfl) (fun _ => rfl) rfl rfl⟩

/-! ### Three bytes at a time -/

/-- From one state to the next a byte of memory changes, and no other and no parameter; memory stays canonical. -/
structure ByteReplaced (a : Addr) (v : Byte) (s t : State) : Prop where
  params : t.params = s.params
  wf : t.mem.wf = true
  byteAt (b : Addr) : t.byteAt b = if b = a then v else s.byteAt b

theorem ByteReplaced.byteAt_same {a : Addr} {v : Byte} {s t : State} (h : ByteReplaced a v s t) : t.byteAt a = v := by
  rw [h.byteAt, if_pos rfl]

theorem ByteReplaced.byteAt_other {a b : Addr} {v : Byte} {s t : State} (h : ByteReplaced a v s t) (hne : b ≠ a) :
    t.byteAt b = s.byteAt b := by
  rw [h.byteAt, if_neg hne]

theorem ByteReplaced.writable {a b : Addr} {v : Byte} {s t : State} (h : ByteReplaced a v s t) (hw : Writable s b) : Writable t b :=
  (writable_congr h.params b).mpr hw

/-- A read-modify-write of a writable byte of the direct page replaces it by the result, and leaves the flags. -/
theorem UnaryRuns.dir_writable {mk : Mode → Instr} {onA onX : Instr} {result : Byte → State → Byte} {flags : Byte → State → Ccr}
    {draws : State → Nat} (h : UnaryRuns mk onA onX result flags draws) {dd : Byte} {s : State} (hwf : s.mem.wf)
    (hw : Writable s (zext16 dd)) :
    ∃ t, exec (mk (.dir dd)) s = .next t ∧
      ByteReplaced (zext16 dd) (result (s.byteAt (zext16 dd)) s) s t ∧ t.ccr = flags (s.byteAt (zext16 dd)) s := by
  have hio : s.region (zext16 dd) ≠ .io := by simp [hw.1]
  have hrun := h.1 (.dir dd) s ⟨rfl, hw.storable⟩
  simp only [modeAddr, loadValue_plain hio, afterLoad_plain hio, afterStore_ram _ hw.1] at hrun
  exact ⟨_, hrun, ⟨rfl, Memory.wf_write _ (zext16 dd).isLt hwf, fun b => State.byteAt_withMem_write hwf (zext16 dd) b _⟩, rfl⟩

/-- The bit that leaves on the left and the byte that stays hold the whole double, with the bit that enters. -/
theorem carry_byte_of_double (b : Byte) (c : Bool) :
    256 * (b.getLsbD 7).toNat + (BitVec.ofNat 8 (2 * b.toNat + c.toNat)).toNat = 2 * b.toNat + c.toNat := by
  have hout : (b.getLsbD 7).toNat = if 256 ≤ 2 * b.toNat then 1 else 0 := byte_getLsbD_seven b ▸ Bool.cond_decide ..
  have hb := b.isLt
  have hc := c.toNat_le
  rw [hout, BitVec.toNat_ofNat]
  split <;> omega

/-- The byte that stays is half of the nine bits, the bit that enters above the byte, and the bit that leaves is the remainder. -/
theorem byte_carry_of_half (b : Byte) (c : Bool) :
    2 * (BitVec.ofNat 8 (128 * c.toNat + b.toNat / 2)).toNat + (b.getLsbD 0).toNat = 256 * c.toNat + b.toNat := by
  have hout : (b.getLsbD 0).toNat = if b.toNat % 2 = 1 then 1 else 0 := byte_getLsbD_zero b ▸ Bool.cond_decide ..
  have hb := b.isLt
  have hc := c.toNat_le
  rw [hout, BitVec.toNat_ofNat]
  split <;> omega

section
variable {dd : Byte} {s : State} (hwf : s.mem.wf) (hw : Writable s (zext16 dd))
include hwf hw

theorem exec_lsl_dir_double :
    ∃ r t, exec (.lsl (.dir dd)) s = .next t ∧ ByteReplaced (zext16 dd) r s t ∧
      256 * t.ccr.c.toNat + r.toNat = 2 * (s.byteAt (zext16 dd)).toNat := by
  obtain ⟨t, hrun, hmem, hccr⟩ := shiftLeftDoubles.1.dir_writable hwf hw
  refine ⟨_, t, hrun, hmem, ?_⟩
  rw [hccr, ← byte_getLsbD_seven]
  exact carry_byte_of_double _ false

theorem exec_rol_dir_double :
    ∃ r t, exec (.rol (.dir dd)) s = .next t ∧ ByteReplaced (zext16 dd) r s t ∧
      256 * t.ccr.c.toNat + r.toNat = 2 * (s.byteAt (zext16 dd)).toNat + s.ccr.c.toNat := by
  obtain ⟨t, hrun, hmem, hccr⟩ := rotatesThroughCarry.1.dir_writable hwf hw
  refine ⟨_, t, hrun, hmem, ?_⟩
  rw [hccr]
  exact carry_byte_of_double _ _

theorem exec_lsr_dir_half :
    ∃ r t, exec (.lsr (.dir dd)) s = .next t ∧ ByteReplaced (zext16 dd) r s t ∧
      2 * r.toNat + t.ccr.c.toNat = (s.byteAt (zext16 dd)).toNat := by
  obtain ⟨t, hrun, hmem, hccr⟩ := shiftRightHalves.1.dir_writable hwf hw
  refine ⟨_, t, hrun, hmem, ?_⟩
  simpa [hccr, ← byte_getLsbD_zero] using byte_carry_of_half (s.byteAt (zext16 dd)) false

theorem exec_ror_dir_half :
    ∃ r t, exec (.ror (.dir dd)) s = .next t ∧ ByteReplaced (zext16 dd) r s t ∧
      2 * r.toNat + t.ccr.c.toNat = 256 * s.ccr.c.toNat + (s.byteAt (zext16 dd)).toNat := by
  obtain ⟨t, hrun, hmem, hccr⟩ := rotatesThroughCarry.2.dir_writable hwf hw
  refine ⟨_, t, hrun, hmem, ?_⟩
  rw [hccr]
  exact byte_carry_of_half _ _

end

/-- Of the carry and the value that hold a double, the value is the double modulo 2^24 and the carry its highest bit. -/
theorem double_mod_and_carry {c : Bool} {v n : Nat} (hv : v < 2 ^ 24) (h : 2 ^ 24 * c.toNat + v = 2 * n) :
    v = 2 * n % 2 ^ 24 ∧ c = decide (2 ^ 23 ≤ n) := by
  have hc := c.toNat_le
  rw [Bool.eq_iff_iff, decide_eq_true_eq, ← Bool.toNat_eq_one]
  omega

/-- Of the value and the carry that hold twice the one plus the other, the value is the half and the carry the remainder. -/
theorem half_and_carry {c : Bool} {v n : Nat} (h : 2 * v + c.toNat = n) : v = n / 2 ∧ c = decide (n % 2 = 1) := by
  have hc := c.toNat_le
  rw [Bool.eq_iff_iff, decide_eq_true_eq, ← Bool.toNat_eq_one]
  omega

theorem value24_lt (dd : Byte) (s : State) : value24 dd s < 2 ^ 24 := by
  unfold value24
  omega

/-- Below `$FE` the three bytes of a value stay within the direct page. -/
theorem value24_eq_direct {dd : Byte} (hdd : dd.toNat ≤ 253) (s : State) :
    value24 dd s =
      65536 * (s.byteAt (zext16 dd)).toNat + 256 * (s.byteAt (zext16 (dd + 1))).toNat + (s.byteAt (zext16 (dd + 2))).toNat := by
  have hmid : zext16 (dd + 1) = zext16 dd + 1 := by unfold zext16; bv_omega
  have hlow : zext16 (dd + 2) = zext16 dd + 2 := by unfold zext16; bv_omega
  rw [value24, hmid, hlow]

/-- Settles O53: of the equations for the three bytes, the carries between them cancel. -/
theorem multibyteShifts : Obligations.MultibyteShifts := by
  intro dd s hdd hwf hhigh hmid hlow
  have hhm : zext16 dd ≠ zext16 (dd + 1) := by unfold zext16; bv_omega
  have hhl : zext16 dd ≠ zext16 (dd + 2) := by unfold zext16; bv_omega
  have hml : zext16 (dd + 1) ≠ zext16 (dd + 2) := by unfold zext16; bv_omega
  refine ⟨?left, ?right⟩
  case left =>
    obtain ⟨r, t, ht, hst, hlowEq⟩ := exec_lsl_dir_double hwf hlow
    obtain ⟨q, u, hu, htu, hmidEq⟩ := exec_rol_dir_double hst.wf (hst.writable hmid)
    obtain ⟨p, w, hw, huw, hhighEq⟩ := exec_rol_dir_double htu.wf (htu.writable (hst.writable hhigh))
    refine ⟨t, u, w, ht, hu, hw, double_mod_and_carry (value24_lt dd w) ?_⟩
    rw [hst.byteAt_other hml] at hmidEq
    rw [htu.byteAt_other hhm, hst.byteAt_other hhl] at hhighEq
    rw [value24_eq_direct hdd, value24_eq_direct hdd, huw.byteAt_same, huw.byteAt_other hhm.symm, htu.byteAt_same,
      huw.byteAt_other hhl.symm, htu.byteAt_other hml.symm, hst.byteAt_same]
    omega
  case right =>
    obtain ⟨p, t, ht, hst, hhighEq⟩ := exec_lsr_dir_half hwf hhigh
    obtain ⟨q, u, hu, htu, hmidEq⟩ := exec_ror_dir_half hst.wf (hst.writable hmid)
    obtain ⟨r, w, hw, huw, hlowEq⟩ := exec_ror_dir_half htu.wf (htu.writable (hst.writable hlow))
    refine ⟨t, u, w, ht, hu, hw, half_and_carry ?_⟩
    rw [hst.byteAt_other hhm.symm] at hmidEq
    rw [htu.byteAt_other hml.symm, hst.byteAt_other hhl.symm] at hlowEq
    rw [value24_eq_direct hdd, value24_eq_direct hdd, huw.byteAt_same, huw.byteAt_other hml, htu.byteAt_same,
      huw.byteAt_other hhl, htu.byteAt_other hhm, hst.byteAt_same]
    omega

end Sys2Proof.Machine
end

section
/-! PROOFS. Jumps and branches: JMP and the effective addresses (O54), the branches on one condition (O55) and on several flags (O56), BIL
and BIH (O57), complementary branches (O58), the order that the branches decide after a comparison (O59). A branch is run once for every
condition; what a comparison leaves enters as three facts about its flags, `OrderFlags`. -/
namespace Sys2Proof.Machine

open Sys2Proof

/-! ### JMP and effective addresses -/

theorem exec_jmp_taken {m : Mode} {s : State} (h : modeRefusal m s = none) : exec (.jmp m) s = .next { s with pc := modeAddr m s } := by
  rw [exec, execJmp, effAddr_ready h]
  rfl

/-- A 16-bit sum is that of the numbers, modulo 2^16 (20_memory.md R68). -/
theorem addr_add_eq_ofNat (w v : Addr) : w + v = BitVec.ofNat 16 (w.toNat + v.toNat) := by
  apply BitVec.eq_of_toNat_eq
  rw [BitVec.toNat_add, BitVec.toNat_ofNat]

/-- The extension of a byte is unsigned (00_scope.md R11). -/
theorem toNat_zext16 (b : Byte) : (zext16 b).toNat = b.toNat := by
  rw [zext16, BitVec.toNat_setWidth_of_le (by decide)]

theorem zext16_eq_ofNat (b : Byte) : zext16 b = BitVec.ofNat 16 b.toNat := by
  rw [← toNat_zext16, BitVec.ofNat_toNat, BitVec.setWidth_eq]

theorem hx_eq_ofNat (s : State) : s.hx = BitVec.ofNat 16 (256 * s.h.toNat + s.x.toNat) := by
  rw [← toNat_joinBytes, BitVec.ofNat_toNat, BitVec.setWidth_eq]
  rfl

theorem hx_add_eq_ofNat (s : State) (v : Addr) : s.hx + v = BitVec.ofNat 16 (256 * s.h.toNat + s.x.toNat + v.toNat) := by
  rw [addr_add_eq_ofNat, State.hx, toNat_joinBytes]

/-- An 8-bit offset is taken without the switch, or below `$80` (D2; log 16); that of SP1 is treated alike. -/
theorem modeRefusal_ix1_eq_none_iff (ff : Byte) (s : State) :
    modeRefusal (.ix1 ff) s = none ↔ s.params.refuseHighOffsets = false ∨ ff.toNat < 128 := by
  have hmsb : ff.msb = false ↔ ff.toNat < 128 := by rw [← Bool.not_eq_true, byte_msb_iff, Nat.not_le]
  rw [modeRefusal, ← hmsb, ← Bool.and_eq_false_iff]
  split <;> simp [*]

/-- Settles O54, a mode at a time. -/
theorem effectiveAddresses : Obligations.EffectiveAddresses := by
  refine ⟨fun _ _ => exec_jmp_taken, fun s dd => ⟨zext16_eq_ofNat dd, rfl⟩, fun s hhll => ⟨rfl, rfl⟩,
    fun s eeff => ⟨hx_add_eq_ofNat s eeff, rfl⟩, fun s ff => ⟨?ix1, modeRefusal_ix1_eq_none_iff ff s⟩, fun s => ⟨hx_eq_ofNat s, rfl⟩,
    fun s eeff => ⟨addr_add_eq_ofNat s.sp eeff, rfl⟩, fun s ff => ⟨?sp1, modeRefusal_ix1_eq_none_iff ff s⟩⟩
  case ix1 => rw [modeAddr, hx_add_eq_ofNat, toNat_zext16]
  case sp1 => rw [modeAddr, addr_add_eq_ofNat, toNat_zext16]

/-! ### The branches -/

/-- Every branch has two bytes, and nothing but pc changes (46_jump_branch.md R221). -/
theorem branch_eq_next {i : Instr} (hsize : i.size = 2) (taken : Bool) (rr : Byte) (s : State) :
    branch taken rr i s = .next { s with pc := branchGoal taken rr s } := by
  rw [branch, branchAddr_eq_branchGoal hsize]
  rfl

/-- What the branches have in common beside their run: the two bytes, the three cycles. -/
structure BranchRow (mk : Byte → Instr) (opcode : Byte) : Prop where
  encode : ∀ rr, encode (mk rr) = [opcode, rr]
  wf : ∀ rr, (mk rr).wf = true
  size : ∀ rr, (mk rr).size = 2
  cycles : ∀ rr, (mk rr).cycles = some 3

/-- An instruction that has a branch's row and whose meaning is `branch` of a condition; its bytes are decoded by O2. -/
theorem BranchRow.runs {mk : Byte → Instr} {opcode : Byte} {cond : State → Bool} (hrow : BranchRow mk opcode)
    (hexec : ∀ rr s, exec (mk rr) s = branch (cond s) rr (mk rr) s) : BranchRuns mk opcode cond := by
  intro rr s
  have hdecode := decodeEncodeRoundTrip (mk rr) [] (hrow.wf rr)
  rw [List.append_nil, hrow.encode] at hdecode
  exact ⟨hrow.encode rr, hdecode, hrow.cycles rr, (hexec rr s).trans (branch_eq_next (hrow.size rr) _ rr s)⟩

theorem BranchRuns.exec_eq {mk : Byte → Instr} {opcode : Byte} {cond : State → Bool} (h : BranchRuns mk opcode cond) (rr : Byte)
    (s : State) : exec (mk rr) s = .next { s with pc := branchGoal (cond s) rr s } := by
  obtain ⟨-, -, -, hexec⟩ := h rr s
  exact hexec

/-- Settles O55: each has its row, and its meaning is `branch` of its condition. -/
theorem simpleBranches : Obligations.SimpleBranches := by
  refine ⟨?_, ?_, ?_, ?_, ?_, ?_, ?_, ?_, ?_, ?_, ?_, ?_, ?_, ?_⟩
  all_goals exact BranchRow.runs ⟨fun _ => rfl, fun _ => rfl, fun _ => rfl, fun _ => rfl⟩ fun _ _ => rfl

theorem beq_eq_not_xor (b c : Bool) : (b == c) = !(b ^^ c) := (Bool.not_not _).symm

/-- Settles O56: the opposite of a condition on several flags is the model's condition on their opposites. -/
theorem compoundBranches : Obligations.CompoundBranches := by
  refine ⟨BranchRow.runs ?_ fun rr s => ?bhi, BranchRow.runs ?_ fun _ _ => rfl, BranchRow.runs ?_ fun rr s => ?bge,
    BranchRow.runs ?_ fun _ _ => rfl, BranchRow.runs ?_ fun rr s => ?bgt, BranchRow.runs ?_ fun _ _ => rfl⟩
  case bhi =>
    rw [Bool.not_or]
    rfl
  case bge =>
    rw [← beq_eq_not_xor]
    rfl
  case bgt =>
    rw [Bool.not_or, ← beq_eq_not_xor]
    rfl
  all_goals exact ⟨fun _ => rfl, fun _ => rfl, fun _ => rfl, fun _ => rfl⟩

/-- Settles O57: the branch runs in the state that has taken its draw. -/
theorem irqPinBranches : Obligations.IrqPinBranches := fun rr s =>
  ⟨branch_eq_next rfl (!irqHigh s) rr s.drawn, branch_eq_next rfl (irqHigh s) rr s.drawn⟩

/-! ### Complementary branches -/

/-- A branch taken and one not taken end apart: a nonzero signed byte is no multiple of 2^16. -/
theorem branchGoal_true_ne_false {rr : Byte} (hrr : rr ≠ 0) (s : State) : branchGoal true rr s ≠ branchGoal false rr s := by
  have hlt := rr.isLt
  have hzero : rr.toNat ≠ 0 := fun h => hrr (BitVec.eq_of_toNat_eq h)
  rw [branchGoal, branchGoal, if_pos rfl, if_neg Bool.false_ne_true, byte_toInt_eq, Ne, BitVec.toNat_eq, BitVec.toNat_ofInt,
    BitVec.toNat_ofInt]
  omega

/-- Of the outcomes of two branches with this offset exactly one is that of a branch taken, as their pc show (R242). -/
def ExactlyOneTaken (x y : Result State) (rr : Byte) (s : State) : Prop :=
  ∃ t u, x = .next t ∧ y = .next u ∧ t.pc ≠ u.pc ∧
    ((t.pc = branchGoal true rr s ∧ u.pc = branchGoal false rr s) ∨ (t.pc = branchGoal false rr s ∧ u.pc = branchGoal true rr s))

theorem exactlyOneTaken_of_not {x y : Result State} {rr : Byte} {s t u : State} (hrr : rr ≠ 0) (taken : Bool) (hx : x = .next t)
    (hy : y = .next u) (ht : t.pc = branchGoal (!taken) rr s) (hu : u.pc = branchGoal taken rr s) : ExactlyOneTaken x y rr s := by
  have hne := branchGoal_true_ne_false hrr s
  refine ⟨t, u, hx, hy, ?_⟩
  rw [ht, hu]
  cases taken with
  | false => exact ⟨hne, .inl ⟨rfl, rfl⟩⟩
  | true => exact ⟨hne.symm, .inr ⟨rfl, rfl⟩⟩

/-- Branches on a condition and on its opposite. -/
theorem BranchRuns.exactlyOneTaken {mk mk' : Byte → Instr} {opcode opcode' : Byte} {cond : State → Bool} {rr : Byte}
    (h : BranchRuns mk opcode fun s => !cond s) (h' : BranchRuns mk' opcode' cond) (hrr : rr ≠ 0) (s : State) :
    ExactlyOneTaken (exec (mk rr) s) (exec (mk' rr) s) rr s :=
  exactlyOneTaken_of_not hrr (cond s) (h.exec_eq rr s) (h'.exec_eq rr s) rfl rfl

/-- Settles O58: of every pair the first branches on the opposite of the second's condition, BRA on that of none. -/
theorem complementaryBranches : Obligations.ComplementaryBranches := by
  intro rr s hrr p hp
  obtain ⟨hbra, hbrn, hbcc, hbhs, hbcs, hblo, hbne, hbeq, hbhcc, hbhcs, hbpl, hbmi, hbmc, hbms⟩ := simpleBranches
  obtain ⟨hbhi, hbls, hbge, hblt, hbgt, hble⟩ := compoundBranches
  obtain ⟨hbil, hbih⟩ := irqPinBranches rr s
  simp only [List.mem_cons, List.not_mem_nil, or_false] at hp
  rcases hp with rfl | rfl | rfl | rfl | rfl | rfl | rfl | rfl | rfl | rfl | rfl
  · exact BranchRuns.exactlyOneTaken (cond := fun _ => false) hbra hbrn hrr s
  · exact hbhi.exactlyOneTaken hbls hrr s
  · exact hbcc.exactlyOneTaken hbcs hrr s
  · exact hbhs.exactlyOneTaken hblo hrr s
  · exact hbne.exactlyOneTaken hbeq hrr s
  · exact hbhcc.exactlyOneTaken hbhcs hrr s
  · exact hbpl.exactlyOneTaken hbmi hrr s
  · exact hbmc.exactlyOneTaken hbms hrr s
  · exact exactlyOneTaken_of_not hrr (Config.irqPin s.draws) hbil hbih rfl rfl
  · exact hbge.exactlyOneTaken hblt hrr s
  · exact hbgt.exactlyOneTaken hble hrr s

/-! ### Branches after a comparison -/

section
variable {mk : Byte → Instr} {opcode : Byte} {cond : State → Bool} {s : State} {p : Prop}

theorem BranchRuns.takenIff (h : BranchRuns mk opcode cond) (hcond : cond s = true ↔ p) : TakenIff mk s p := by
  intro rr
  refine ⟨fun hp => ?taken, fun hp => ?passed⟩
  case taken => rw [h.exec_eq, hcond.mpr hp]
  case passed => rw [h.exec_eq, Bool.eq_false_iff.mpr (mt hcond.mp hp)]

theorem BranchRuns.takenIff_not (h : BranchRuns mk opcode fun s => !cond s) (hcond : cond s = true ↔ p) : TakenIff mk s (¬p) :=
  h.takenIff (by rw [Bool.not_eq_true', ← Bool.not_eq_true, hcond])

end

/-- The flags tell the order of two values: C that the first is below unsigned, Z that they are equal, N xor V that the first is lower
signed. -/
structure OrderFlags (f : Ccr) (below equal lower : Prop) : Prop where
  c : f.c = true ↔ below
  z : f.z = true ↔ equal
  nv : (f.n ^^ f.v) = true ↔ lower

/-- Where the flags tell the order the branches decide it. -/
theorem OrderFlags.decidesOrder {s : State} {below equal lower : Prop} (h : OrderFlags s.ccr below equal lower) :
    DecidesOrder s below equal lower := by
  obtain ⟨-, -, hbcc, hbhs, hbcs, hblo, hbne, hbeq, -⟩ := simpleBranches
  obtain ⟨hbhi, hbls, hbge, hblt, hbgt, hble⟩ := compoundBranches
  have hcz : (s.ccr.c || s.ccr.z) = true ↔ below ∨ equal := by rw [Bool.or_eq_true, h.c, h.z]
  have hznv : (s.ccr.z || (s.ccr.n ^^ s.ccr.v)) = true ↔ lower ∨ equal := by rw [Bool.or_eq_true, h.z, h.nv, or_comm]
  exact ⟨hblo.takenIff h.c, hbcs.takenIff h.c, hbhs.takenIff_not h.c, hbcc.takenIff_not h.c, hbls.takenIff hcz, hbhi.takenIff_not hcz,
    hbeq.takenIff h.z, hbne.takenIff_not h.z, hblt.takenIff h.nv, hbge.takenIff_not h.nv, hble.takenIff hznv, hbgt.takenIff_not hznv⟩

theorem xor_eq_true_iff_not_iff (b c : Bool) : (b ^^ c) = true ↔ ¬(b = true ↔ c = true) := by
  rw [← Bool.eq_iff_iff]
  exact bne_iff_ne

/-- The flags of an 8-bit difference: where it does not fit, its sign is the wrong one, and V puts it right. -/
theorem orderFlags_differenceFlags8 (a m : Byte) (f : Ccr) :
    OrderFlags (differenceFlags8 a m false f) (a.toNat < m.toNat) (a = m) (a.toInt < m.toInt) := by
  have hr : (difference8 a m false).toNat = (((a.toNat : Int) - m.toNat - (0 : Nat)) % 256).toNat := BitVec.toNat_ofInt ..
  have hzero : (0 : Byte).toNat = 0 := rfl
  have ha := a.isLt
  have hm := m.isLt
  refine ⟨decide_eq_true_iff, decide_eq_true_iff.trans ?z, ?nv⟩
  case z =>
    rw [BitVec.toNat_eq, BitVec.toNat_eq, hr, hzero]
    omega
  case nv =>
    have hn : (differenceFlags8 a m false f).n = (difference8 a m false).msb := (BitVec.msb_eq_getLsbD_last _).symm
    have hv : (differenceFlags8 a m false f).v = overflows8 (a.toInt - m.toInt - 0) := rfl
    rw [xor_eq_true_iff_not_iff, hn, hv, byte_msb_iff, hr, overflows8_iff, byte_toInt_eq, byte_toInt_eq]
    omega

/-- The same of a 16-bit difference. -/
theorem orderFlags_differenceFlags16 (a m : Addr) (f : Ccr) :
    OrderFlags (differenceFlags16 a m f) (a.toNat < m.toNat) (a = m) (a.toInt < m.toInt) := by
  refine ⟨decide_eq_true_iff, decide_eq_true_iff, ?nv⟩
  have hn : (differenceFlags16 a m f).n = (sub16 a m).r.msb := (BitVec.msb_eq_getLsbD_last _).symm
  have hv : (differenceFlags16 a m f).v = overflows16 (a.toInt - m.toInt) := rfl
  rw [xor_eq_true_iff_not_iff, hn, hv, word_msb_iff, toNat_sub16_r, overflows16_iff, word_toInt_eq, word_toInt_eq]
  omega

/-- After an instruction that leaves the flags of the difference between a register and its operand the branches decide their order;
reading the operand leaves the register. -/
theorem OperandRuns.decidesOrder {mk : Operand8 → Instr} {effect : Byte → State → State} (reg : RegFile → Byte)
    (h : OperandRuns mk effect)
    (hflags : ∀ m s, (effect m s).ccr = differenceFlags8 (reg s.regFile) m false s.ccr) {o : Operand8} {s : State}
    (hready : Operand8Ready o s) :
    ∃ t, exec (mk o) s = .next t ∧
      DecidesOrder t ((reg s.regFile).toNat < (operand8Value o s).toNat) (reg s.regFile = operand8Value o s)
        ((reg s.regFile).toInt < (operand8Value o s).toInt) := by
  refine ⟨_, h o s hready, OrderFlags.decidesOrder ?_⟩
  dsimp only
  rw [hflags, operand8After_regFile]
  exact orderFlags_differenceFlags8 ..

@[simp] theorem operand16After_hx (o : Operand16) (s : State) : (operand16After o s).hx = s.hx := by
  cases o with
  | imm jjkk => rfl
  | mem m => exact (afterLoad_hx _ _).trans (afterLoad_hx _ s)

/-- Settles O59: CMP and SUB compare A, CPX compares X, CPHX compares H:X. -/
theorem branchesDecideComparisons : Obligations.BranchesDecideComparisons := by
  obtain ⟨hcmp, hcpx⟩ := compareSetsFlagsOnly
  obtain ⟨hsub, -⟩ := subtractSetsFlags
  refine ⟨fun _ _ => hcmp.decidesOrder RegFile.a fun _ _ => rfl, fun _ _ => hsub.decidesOrder RegFile.a fun _ _ => rfl,
    fun _ _ => hcpx.decidesOrder RegFile.x fun _ _ => rfl, fun o s hready => ⟨_, cphxSetsFlagsOnly o s hready, ?cphx⟩⟩
  case cphx =>
    refine OrderFlags.decidesOrder ?_
    dsimp only
    rw [operand16After_hx]
    exact orderFlags_differenceFlags16 ..

end Sys2Proof.Machine
end

section
/-! PROOFS. Exceptions: where a step ends before there is an instruction to run (O9), at the halt address or at an unmapped pc. -/
namespace Sys2Proof.Machine

open Sys2Proof

/-- The opcode is the first byte that a fetch reads, so the fetch is refused with it. -/
theorem fetch_unmapped {s : State} (h : s.region s.pc = .none) : fetch s = .refused (.unmappedAccess s.pc) := by
  rw [fetch, memRead_unmapped h, andThen_refused]

theorem step_halted {s : State} (h : s.params.haltAddr = some s.pc) : step s = .fault (.halted s.pc) := if_pos h

/-- A refused fetch leaves nothing to decode or to run. -/
theorem step_fetch_refused {s : State} {r : Refusal} (hhalt : s.params.haltAddr ≠ some s.pc) (h : fetch s = .refused r) :
    step s = .refused r := by
  rw [step, if_neg hhalt, fetchInstr, h, andThen_refused, andThen_refused]

/-- Settles O9: the halt address is looked at before the fetch, and the fetch begins with the byte at pc. -/
theorem stepStopsBeforeInstruction : Obligations.StepStopsBeforeInstruction :=
  ⟨fun _ => step_halted, fun _ hhalt hunmapped => step_fetch_refused hhalt (fetch_unmapped hunmapped)⟩

end Sys2Proof.Machine
end
